-- ==== Sys2Proof/Word.lean ====
section
/-! DEFINITION. The words of the block (spec/00_scope.md R6: all quantities unsigned, bit 0 least
significant) and the fixed-size arrays its state is made of (10_state.md R58: "fixed-size arrays of
Endpoint-state records"). -/

namespace Sys2Proof

/-- One byte (20_memory.md R70: the space is byte-addressed). -/
abbrev Byte := BitVec 8

/-- A 32-bit word: a descriptor word or an address (20_memory.md R73, R76). -/
abbrev Word := BitVec 32

/-- An endpoint number as a token and the status byte carry it: 4 bits (30_encoding.md R105). -/
abbrev Ep := BitVec 4

/-- A slot index: the 8-bit status value shifted right by two gives 6 bits (30_encoding.md R120). -/
abbrev SlotIx := BitVec 6

/-- An array with one cell per `w`-bit index, so that no index is ever out of range. -/
structure Tab (w : Nat) (α : Type) where
  cells : Vector α (2 ^ w)
deriving DecidableEq, Repr

/-- The cell at index `i`. -/
def Tab.get {w : Nat} {α : Type} (t : Tab w α) (i : BitVec w) : α :=
  t.cells[i.toNat]'i.isLt

/-- The array with cell `i` replaced. -/
def Tab.set {w : Nat} {α : Type} (t : Tab w α) (i : BitVec w) (v : α) : Tab w α :=
  ⟨t.cells.set i.toNat v i.isLt⟩

/-- The array that holds `v` in every cell. -/
def Tab.fill {w : Nat} {α : Type} (v : α) : Tab w α :=
  ⟨Vector.replicate (2 ^ w) v⟩

end Sys2Proof
end

