-- ==== Sys2Proof/Syntax.lean ====
section
/-! DEFINITION. The block's operations as syntax: one constructor of `Instr` for each row of
spec/opcode_table.json (30_encoding.md R100 to R118), and the small name types their operands use
(00_scope.md R11). -/

namespace Sys2Proof

/-- Directions (00_scope.md R11): RX is host to device, TX is device to host. -/
inductive Dir where
  | rx | tx
deriving DecidableEq, Repr, Inhabited

/-- Banks (00_scope.md R11). -/
inductive Bank where
  | even | odd
deriving DecidableEq, Repr, Inhabited

/-- Data toggles (00_scope.md R11). -/
inductive Toggle where
  | data0 | data1
deriving DecidableEq, Repr, Inhabited

/-- The six values of `tx_state[ep]` (10_state.md R45), in the document's order (30_encoding.md R116). -/
inductive TxState where
  | bothFreeEvenFirst | bothFreeOddFirst | evenFree | oddFree | noneFreeEvenFirst | noneFreeOddFirst
deriving DecidableEq, Repr, Inhabited

/-- Bits 6:2 of an armed descriptor word: the toggle, and the bits `keep`, `ninc`, `dts`, `stall`, which are 0010 in
every word a rule writes (30_encoding.md R102). -/
structure ArmedBits where
  tog   : Toggle
  flags : BitVec 4
deriving DecidableEq, Repr

/-- The operations. `ep` operands of commands and link events are bytes, so that numbers outside
`0..N_EP` can be spelled and are guarded by the meanings (42_queues.md R201); `pkt` operands are packet
numbers; `n` is a byte count of 10 bits (30_encoding.md R102); `stat` is a status byte (R105). -/
inductive Instr where
  -- REQ16: the request handlers, run on the captured `setup` (30_encoding.md R114)
  | reqGetStatusDev
  | reqGetStatusEp
  | reqClearFeatureEp
  | reqSetFeatureEp
  | reqSetAddress
  | reqGetDescriptor (bmRequestType : Byte)
  | reqGetConfiguration
  | reqSetConfiguration
  | reqOther (bRequest bmRequestType : Byte)
  -- TOK4: what EP0.HANDLE does for the token kind of the completed slot (R115, 44 R240)
  | tokSetup (slot : SlotIx)
  | tokOut (slot : SlotIx)
  | tokIn (slot : SlotIx)
  | tokOther (slot : SlotIx) (tok : BitVec 4)
  -- ISTAT8: the interrupt conditions (R106)
  | irqSof
  | irqTokdne
  | irqReset
  | irqStall
  | irqError
  | irqSleep
  | istResume
  | istAttach
  -- STAT8: routing of a status byte (R105, 45 R304)
  | routeEp0 (stat : Byte)
  | routeTxdone (stat : Byte)
  | routeRxdoneZero (stat : Byte)
  | routeRxdoneData (stat : Byte)
  | routeIgnore (stat : Byte)
  -- CMD8: the command interface (R117)
  | busInit
  | irqEntry
  | alloc (ep : Byte)
  | allocSeg (ep : Byte)
  | release (pkt : BitVec 16)
  | txSubmit (ep : Byte) (pkt : BitVec 16)
  | isoSubmit (ep : Byte) (addr : Word) (n : BitVec 10)
  | rxDequeue (ep : Byte)
  | rxBytes (ep : Byte)
  | txPkts (ep : Byte)
  | rxPkts (ep : Byte)
  | csEnter
  | csExit
  | ep0Transmit (addr : Word) (n : BitVec 10)
  | setRebootTimer (n : BitVec 32)
  | bdtWrite (ep : Byte) (dir : Dir) (bank : Bank) (n : BitVec 10) (tog : Toggle) (addr : Word)
  | bdtReadc (ep : Byte) (dir : Dir) (bank : Bank)
  -- LINK8: the link's events (R118)
  | linkSetup (data : List Byte)
  | linkOut (ep : Byte) (tog : Toggle) (data : List Byte)
  | linkIn (ep : Byte)
  | linkSof
  | linkReset
  | linkError (m : Byte)
  | linkSleep
  | linkStalled (ep : Byte)
  | linkNak (ep : Byte) (dir : Dir)
  -- PROC: internal procedures without an encoding
  | bdtClear
  | linkComplete (ep : Ep) (dir : Dir)
  | poolReturn (pkt : BitVec 16)
  | starvedTarget (pkt : BitVec 16)
  | redirect (ep : Ep) (pkt : BitVec 16)
  | rxqEnqueue (ep : Ep) (pkt : BitVec 16)
  | txqAppend (ep : Ep) (pkt : BitVec 16)
  | txqPop (ep : Ep)
  | txComplete (ep : Ep) (bank : Bank)
  | txCompleteTableA (st : TxState) (bank : Bank)
  | txCompleteTableB (st : TxState) (bank : Bank)
  | teardownBankMap (st : TxState)
  | ep0Handle (stat : Byte)
  | ep0Setup (slot : SlotIx)
  | reqDispatch
  | ep0Send (addr : Word) (len : BitVec 32)
  | ep0In (slot : SlotIx)
  | ep0Out (slot : SlotIx)
  | ep0Stall
  | route (stat : Byte)
  | txdone (ep : Ep) (bank : Bank) (slot : SlotIx)
  | rxdone (ep : Ep) (bank : Bank) (slot : SlotIx)
  -- DESC32: a descriptor word of that form in a slot (R102 to R104, 40 R143)
  | descArmed (slot : SlotIx) (count : BitVec 10) (bits : ArmedBits)
  | descCompleted (slot : SlotIx) (count : BitVec 10) (tog : Toggle) (tok : BitVec 4)
  | descUnarmed (slot : SlotIx)
deriving DecidableEq, Repr

end Sys2Proof
end

