-- ==== Sys2Proof/Config.lean ====
section
/-! DEFINITION. The parameters of the block (spec/00_scope.md R5) as a plain record, its default values,
and the two values the spec leaves open (opaque constants without a body). The functions among the
parameters (CLASS_HOOKS, OUT_HOOK, TICK_HOOK) are inputs held in the state (log 11). -/

namespace Sys2Proof

/-- `ALLOC_STRATEGY` (00_scope.md R5, 41_allocator.md R170). -/
inductive AllocStrategy where
  | segregated | sharedBitmap
deriving DecidableEq, Repr, Inhabited

/-- `STARVED_CLEAR` (00_scope.md R5, 92 D37). -/
inductive StarvedClear where
  | onRedirect | whenNoUnarmedSlot
deriving DecidableEq, Repr, Inhabited

/-- `TEARDOWN_BANK_MAP` (00_scope.md R5, 92 D54 OPEN). -/
inductive TeardownMap where
  | upstream | pointerConsistent
deriving DecidableEq, Repr, Inhabited

/-- One entry of `DESC_LIST` (00_scope.md R5). -/
structure DescEntry where
  wValue : BitVec 16
  wIndex : BitVec 16
  addr   : Word
  length : Nat
deriving DecidableEq, Repr

/-- The parameters (00_scope.md R5), one field each. -/
structure Config where
  /-- `N_EP`, 1..15 -/
  nEp : Ep
  /-- `EP0_SIZE`, one of 8, 16, 32, 64 -/
  ep0Size : Nat
  /-- `PKT_CAP`, 1..1023 -/
  pktCap : Nat
  /-- `NUM_BUFFERS`, at least 1, at most 32 under SharedBitmap -/
  numBuffers : Nat
  allocStrategy : AllocStrategy
  /-- `POOL_SIZE[ep]`, used under Segregated only -/
  poolSize : Tab 4 Nat
  /-- `EP_CONFIG[ep]` -/
  epConfig : Tab 4 Byte
  descList : List DescEntry
  /-- how many class hooks are registered (the length of `CLASS_HOOKS`) -/
  numClassHooks : Nat
  replyBufSize : Nat
  /-- `E_CMP` -/
  eCmp : Nat
  statusIndexMask : BitVec 16
  featureIndexMask : BitVec 16
  /-- `GETDESC_TYPES` -/
  getDescTypes : List Byte
  statDepth : Nat
  rxToggleCheck : Bool
  starvedClear : StarvedClear
  teardownMap : TeardownMap
  timerMax : Nat
  bdtBase : Word
  bdtAlign : Nat
  /-- `buf_addr(i)`, i in 0..NUM_BUFFERS-1 (10_state.md R40) -/
  bufAddrs : List Word
  /-- `EP0_RX_ADDR[EVEN]`, `EP0_RX_ADDR[ODD]` and `REPLY_ADDR` (10_state.md R51) -/
  ep0RxAddrEven : Word
  ep0RxAddrOdd : Word
  replyAddr : Word
deriving DecidableEq, Repr

/-- The open choice of `TEARDOWN_BANK_MAP`: "No default" (92_eei_decisions.md D54). Nothing constrains it
(log 3). -/
opaque Config.openTeardownMap : TeardownMap

/-- What `STAT` reads as while `stat_fifo` is empty: "`STAT` is unspecified (any value)" (10_state.md
R32, 93 U1). A free value, applied to the counter `freeCount` of the state (log 14). -/
opaque Config.emptyStat : Nat → Byte

/-- The default parameters (00_scope.md R5, 30_encoding.md R108). The addresses are symbolic in the spec;
their numbers here are a DESIGN CHOICE (log 2). -/
def Config.default : Config where
  nEp := 4
  ep0Size := 64
  pktCap := 64
  numBuffers := 12
  allocStrategy := .sharedBitmap
  poolSize := ((((Tab.fill 0).set 1 3).set 2 3).set 3 3).set 4 3
  epConfig := ((((Tab.fill 0).set 1 0x15).set 2 0x15).set 3 0x19).set 4 0x14
  descList := [⟨0x0100, 0x0000, 0x00004000, 18⟩]
  numClassHooks := 0
  replyBufSize := 8
  eCmp := 4
  statusIndexMask := 0xFFFF
  featureIndexMask := 0x007F
  getDescTypes := [0x80, 0x81]
  statDepth := 4
  rxToggleCheck := true
  starvedClear := .whenNoUnarmedSlot
  teardownMap := Config.openTeardownMap
  timerMax := 255
  bdtBase := 0x00001000
  bdtAlign := 512
  bufAddrs := (List.range 12).map fun i => BitVec.ofNat 32 (0x2000 + 64 * i)
  ep0RxAddrEven := 0x00003000
  ep0RxAddrOdd := 0x00003040
  replyAddr := 0x00003080

/-- The endpoint numbers `1..N_EP` in ascending order (00_scope.md R12). -/
def Config.endpoints (c : Config) : List Ep :=
  (List.range c.nEp.toNat).map fun k => BitVec.ofNat 4 (k + 1)

/-- `ep` is the number of a non-control endpoint: `1 ≤ ep ≤ N_EP` (42_queues.md R201). -/
def Config.isEndpoint (c : Config) (ep : Nat) : Bool :=
  1 ≤ ep && ep ≤ c.nEp.toNat

/-- Slot `s` stands at `BDT_BASE + 8·s` (20_memory.md R75). -/
def Config.slotAddr (c : Config) (s : Nat) : Nat := c.bdtBase.toNat + 8 * s

/-- A slot's `desc` stands at offset 0 (20_memory.md R75). -/
def Config.descAddr (c : Config) (s : Nat) : Nat := c.slotAddr s

/-- A slot's `addr` stands at offset 4 (20_memory.md R75). -/
def Config.addrAddr (c : Config) (s : Nat) : Nat := c.slotAddr s + 4

/-- The number of slots, `4·(N_EP+1)` (10_state.md R21). -/
def Config.slotCount (c : Config) : Nat := 4 * (c.nEp.toNat + 1)

/-- Bytes of the BDT, `8·4·(N_EP+1)` (20_memory.md R70). -/
def Config.bdtBytes (c : Config) : Nat := 8 * c.slotCount

/-- The table as (base, size): it begins with slot 0 (20_memory.md R75). -/
def Config.tableSpan (c : Config) : Nat × Nat := (c.slotAddr 0, c.bdtBytes)

/-- `reply_buf` as (base, size) (10_state.md R51). -/
def Config.replySpan (c : Config) : Nat × Nat := (c.replyAddr.toNat, c.replyBufSize)

/-- The block's buffers as (base, size): the endpoint-0 buffers and the packet buffers (20_memory.md R70, regions 2
and 3). -/
def Config.bufferSpans (c : Config) : List (Nat × Nat) :=
  [(c.ep0RxAddrEven.toNat, c.ep0Size), (c.ep0RxAddrOdd.toNat, c.ep0Size), c.replySpan]
    ++ (c.bufAddrs.take c.numBuffers).map fun a => (a.toNat, c.pktCap)

/-- The block's own regions: the table and the buffers (20_memory.md R70, regions 1 to 3). -/
def Config.blockRegions (c : Config) : List (Nat × Nat) := c.tableSpan :: c.bufferSpans

/-- The entry is a string: descriptor type 3 (44_control_transfer.md R249). -/
def DescEntry.isString (e : DescEntry) : Bool := e.wValue.extractLsb' 8 8 = 3

/-- The bytes an entry can point to: a fixed length, or for a string what its length byte can say
(44_control_transfer.md R249). -/
def DescEntry.reach (e : DescEntry) : Nat := if e.isString then 255 else e.length

/-- The descriptor store as the parameters give it (20_memory.md R70, region 4). -/
def Config.storeReach (c : Config) : List (Nat × Nat) := c.descList.map fun e => (e.addr.toNat, e.reach)

/-- The regions the parameters lay out: table, buffers and descriptor store (20_memory.md R70). -/
def Config.regions (c : Config) : List (Nat × Nat) := c.blockRegions ++ c.storeReach

/-- Two spans of addresses share no byte. -/
def spansApart (p q : Nat × Nat) : Bool :=
  p.2 = 0 || q.2 = 0 || p.1 + p.2 ≤ q.1 || q.1 + q.2 ≤ p.1

/-- A span lies inside another. -/
def spanInside (p q : Nat × Nat) : Bool := q.1 ≤ p.1 && p.1 + p.2 ≤ q.1 + q.2

/-- Every two spans of a list share no byte. -/
def allApart : List (Nat × Nat) → Bool
  | [] => true
  | p :: ps => ps.all (spansApart p) && allApart ps

/-- The ranges of 00_scope.md R5 and the duties of the platform in 70_reset_and_hazards.md R385: the regions are
apart, but for entries of the descriptor store among themselves. -/
def Config.wf (c : Config) : Bool :=
  1 ≤ c.nEp.toNat &&
  [8, 16, 32, 64].contains c.ep0Size &&
  1 ≤ c.pktCap && c.pktCap ≤ 1023 &&
  1 ≤ c.numBuffers && c.bufAddrs.length = c.numBuffers &&
  (match c.allocStrategy with
   | .sharedBitmap => c.numBuffers ≤ 32
   | .segregated => ((c.endpoints.map c.poolSize.get).sum = c.numBuffers)) &&
  2 ≤ c.replyBufSize && 1 ≤ c.statDepth &&
  1 ≤ c.bdtAlign && c.bdtBase.toNat % c.bdtAlign = 0 &&
  c.regions.all (fun p => p.1 + p.2 ≤ 2 ^ 32) && allApart c.blockRegions &&
  c.storeReach.all (fun p => c.blockRegions.all (spansApart p))

end Sys2Proof
end

