-- ==== Sys2Proof/WellFormed.lean ====
section
/-! DEFINITION. Which terms of `Instr` stand for a word of the opcode table: the conditions its rows carry
that the operand types do not already enforce. -/

namespace Sys2Proof

/-- The request codes with a row of their own, GET_DESCRIPTOR apart (30_encoding.md R114). -/
def standardCodes : List (BitVec 16) :=
  [0x0080, 0x0082, 0x0102, 0x0302, 0x0500, 0x0880, 0x0900]

/-- GET_DESCRIPTOR is recognised when `bRequest` = 0x06 and `bmRequestType` is in `GETDESC_TYPES`
(30_encoding.md R114). -/
def Config.isGetDescriptor (c : Config) (bRequest bmRequestType : Byte) : Bool :=
  bRequest = 0x06 && c.getDescTypes.contains bmRequestType

/-- A term is well formed when it is the reading of some encoded word (or, for an internal procedure, when
its operands are ones a rule can pass). -/
def WellFormed (c : Config) : Instr → Bool
  | .reqGetStatusDev => true
  | .reqGetStatusEp => true
  | .reqClearFeatureEp => true
  | .reqSetFeatureEp => true
  | .reqSetAddress => true
  | .reqGetDescriptor bm => c.isGetDescriptor 0x06 bm
  | .reqGetConfiguration => true
  | .reqSetConfiguration => true
  | .reqOther b bm => !(standardCodes.contains (b ++ bm)) && !(c.isGetDescriptor b bm)
  | .tokSetup slot => slot.toNat < 4
  | .tokOut slot => slot.toNat < 4
  | .tokIn slot => slot.toNat < 4
  | .tokOther slot tok => slot.toNat < 4 && !([0xD, 0x1, 0x9].contains tok)
  | .irqSof => true
  | .irqTokdne => true
  | .irqReset => true
  | .irqStall => true
  | .irqError => true
  | .irqSleep => true
  | .istResume => true
  | .istAttach => true
  | .routeEp0 st => st.extractLsb' 4 4 = 0
  | .routeTxdone st => c.isEndpoint (st.extractLsb' 4 4).toNat && st.getLsbD 3
  | .routeRxdoneZero st => c.isEndpoint (st.extractLsb' 4 4).toNat && !st.getLsbD 3
  | .routeRxdoneData st => c.isEndpoint (st.extractLsb' 4 4).toNat && !st.getLsbD 3
  | .routeIgnore st => c.nEp.toNat < (st.extractLsb' 4 4).toNat
  | .busInit => true
  | .irqEntry => true
  | .alloc _ => c.allocStrategy = .sharedBitmap
  | .allocSeg _ => c.allocStrategy = .segregated
  | .release _ => true
  | .txSubmit _ _ => true
  | .isoSubmit _ _ _ => true
  | .rxDequeue _ => true
  | .rxBytes _ => true
  | .txPkts _ => true
  | .rxPkts _ => true
  | .csEnter => true
  | .csExit => true
  | .ep0Transmit _ _ => true
  | .setRebootTimer _ => true
  | .bdtWrite _ _ _ _ _ _ => true
  | .bdtReadc _ _ _ => true
  | .linkSetup data => data.length = 8
  | .linkOut _ _ data => data.length ≤ 1023
  | .linkIn _ => true
  | .linkSof => true
  | .linkReset => true
  | .linkError _ => true
  | .linkSleep => true
  | .linkStalled _ => true
  | .linkNak _ _ => true
  | .bdtClear => true
  | .linkComplete ep _ => ep.toNat ≤ c.nEp.toNat
  | .poolReturn p => p.toNat < c.numBuffers
  | .starvedTarget p => p.toNat < c.numBuffers
  | .redirect ep p => c.isEndpoint ep.toNat && p.toNat < c.numBuffers
  | .rxqEnqueue ep p => c.isEndpoint ep.toNat && p.toNat < c.numBuffers
  | .txqAppend ep p => c.isEndpoint ep.toNat && p.toNat < c.numBuffers
  | .txqPop ep => c.isEndpoint ep.toNat
  | .txComplete ep _ => c.isEndpoint ep.toNat
  | .txCompleteTableA _ _ => true
  | .txCompleteTableB _ _ => true
  | .teardownBankMap _ => true
  | .ep0Handle st => st.extractLsb' 4 4 = 0
  | .ep0Setup slot => slot.toNat < 2
  | .reqDispatch => true
  | .ep0Send _ _ => true
  | .ep0In slot => slot = 2 || slot = 3
  | .ep0Out slot => slot.toNat < 2
  | .ep0Stall => true
  | .route _ => true
  | .txdone ep _ _ => c.isEndpoint ep.toNat
  | .rxdone ep _ _ => c.isEndpoint ep.toNat
  | .descArmed slot _ _ => slot.toNat < 4 * (c.nEp.toNat + 1)
  | .descCompleted slot n t tok =>
      slot.toNat < 4 * (c.nEp.toNat + 1) && !(n = 0 && t = .data0 && tok = 0)
  | .descUnarmed slot => slot.toNat < 4 * (c.nEp.toNat + 1)

end Sys2Proof
end

