-- ==== Sys2Proof/Decode.lean ====
section
/-! DEFINITION. The encodings of spec/30_encoding.md: bit fields, the descriptor word, the slot index and
the status byte, the SETUP packet's request code, the token kinds, the interrupt bits, and the trace codes
of commands and link events with their operands; each format's decoder, and after them the encoder. -/

namespace Sys2Proof

/-! ## Numbers of the names (00_scope.md R11) -/

/-- RX = 0, TX = 1. -/
def Dir.bit : Dir → BitVec 1
  | .rx => 0
  | .tx => 1

/-- EVEN = 0, ODD = 1. -/
def Bank.bit : Bank → BitVec 1
  | .even => 0
  | .odd => 1

/-- DATA0 = 0, DATA1 = 1. -/
def Toggle.bit : Toggle → BitVec 1
  | .data0 => 0
  | .data1 => 1

def Dir.ofBool (b : Bool) : Dir := if b then .tx else .rx
def Bank.ofBool (b : Bool) : Bank := if b then .odd else .even
def Toggle.ofBool (b : Bool) : Toggle := if b then .data1 else .data0

/-- `tx_state` as a number (R116); 6 and 7 are no state. -/
def TxState.number : TxState → Byte
  | .bothFreeEvenFirst => 0
  | .bothFreeOddFirst => 1
  | .evenFree => 2
  | .oddFree => 3
  | .noneFreeEvenFirst => 4
  | .noneFreeOddFirst => 5

/-- The state a number stands for (R116: "Values 6 and 7 are illegal"). -/
def TxState.ofNumber (b : Byte) : Option TxState :=
  if b = 0 then some .bothFreeEvenFirst
  else if b = 1 then some .bothFreeOddFirst
  else if b = 2 then some .evenFree
  else if b = 3 then some .oddFree
  else if b = 4 then some .noneFreeEvenFirst
  else if b = 5 then some .noneFreeOddFirst
  else none

/-- `x xor 1` of a bank (00_scope.md R6). -/
def Bank.flip : Bank → Bank
  | .even => .odd
  | .odd => .even

/-- `x xor 1` of a toggle. -/
def Toggle.flip : Toggle → Toggle
  | .data0 => .data1
  | .data1 => .data0

/-- "even ⇒ DATA0, odd ⇒ DATA1" (00_scope.md R11). -/
def Bank.toggle : Bank → Toggle
  | .even => .data0
  | .odd => .data1

/-! ## The table: slot index, status byte, descriptor word -/

/-- `slot(ep, dir, bank) = 4·ep + 2·dir + bank` (R101). -/
def slotOf (ep : Ep) (d : Dir) (b : Bank) : SlotIx := ep ++ d.bit ++ b.bit

/-- `ep(s) = s >> 2`, `dir(s) = s[1]`, `bank(s) = s[0]` (R101). -/
def slotEp (s : SlotIx) : Ep := s.extractLsb' 2 4
def slotDir (s : SlotIx) : Dir := .ofBool (s.getLsbD 1)
def slotBank (s : SlotIx) : Bank := .ofBool (s.getLsbD 0)

/-- Index of the link's bank pointer `hw_bank[ep][dir]`. -/
def epDir (ep : Ep) (d : Dir) : BitVec 5 := ep ++ d.bit

/-- The status byte `(ep << 4) | (dir << 3) | (bank << 2)` (R105, 40 R149). -/
def statOf (ep : Ep) (d : Dir) (b : Bank) : Byte := slotOf ep d b ++ 0#2

/-- `slot = STAT >> 2` (R105). -/
def statSlot (st : Byte) : SlotIx := st.extractLsb' 2 6

/-- `STAT.endp`, bits 7:4. -/
def statEp (st : Byte) : Ep := st.extractLsb' 4 4

/-- `STAT.tx`, bit 3, as a direction. -/
def statDir (st : Byte) : Dir := .ofBool (st.getLsbD 3)

/-- `STAT.odd`, bit 2, as a bank. -/
def statBank (st : Byte) : Bank := .ofBool (st.getLsbD 2)

/-- The armed form with the bits `keep`, `ninc`, `dts`, `stall` = `f` (R102). -/
def armedForm (n : BitVec 10) (t : Toggle) (f : BitVec 4) : Word :=
  0#6 ++ n ++ 0#8 ++ 1#1 ++ t.bit ++ f ++ 0#2

/-- `DESC(n, t) = (n << 16) | 0x80 | (t << 6) | 0x08`, the word every rule arms with (R102). -/
def armedWord (n : BitVec 10) (t : Toggle) : Word := armedForm n t 0b0010

/-- The completed form: `count`, `tog` and `tok`, `own` = 0 (R103). -/
def completedWord (n : BitVec 10) (t : Toggle) (tok : BitVec 4) : Word :=
  0#6 ++ n ++ 0#8 ++ 0#1 ++ t.bit ++ tok ++ 0#2

/-- The unarmed form: the whole word zero (R104). -/
def unarmedWord : Word := 0

def descOwn (d : Word) : Bool := d.getLsbD 7
def descCount (d : Word) : BitVec 10 := d.extractLsb' 16 10
def descTog (d : Word) : Toggle := .ofBool (d.getLsbD 6)
def descTok (d : Word) : BitVec 4 := d.extractLsb' 2 4
def descDts (d : Word) : Bool := d.getLsbD 3
def descStall (d : Word) : Bool := d.getLsbD 2

/-- Bits 5:2 of the armed form: `keep`, `ninc`, `dts`, `stall` (R102); `tok` overlays them (R103). -/
def descFlags (d : Word) : BitVec 4 := d.extractLsb' 2 4

/-- Token kinds (R115): SETUP 0xD, OUT 0x1, IN 0x9. -/
def tokSETUP : BitVec 4 := 0xD
def tokOUT : BitVec 4 := 0x1
def tokIN : BitVec 4 := 0x9

/-- A 16-bit field from its two bytes, low byte first (20_memory.md R71). -/
def ofBytes16 (lo hi : Byte) : BitVec 16 := hi ++ lo

/-- A 32-bit word from its four bytes, low byte first. -/
def ofBytes32 (b0 b1 b2 b3 : Byte) : Word := b3 ++ b2 ++ b1 ++ b0

/-- The two bytes of a 16-bit field, low byte first. -/
def toBytes16 (v : BitVec 16) : List Byte := [v.extractLsb' 0 8, v.extractLsb' 8 8]

/-- The four bytes of a word, low byte first. -/
def toBytes32 (v : Word) : List Byte :=
  [v.extractLsb' 0 8, v.extractLsb' 8 8, v.extractLsb' 16 8, v.extractLsb' 24 8]

/-! ## Request codes, token kinds, conditions, routes -/

/-- The rows of the request table (R114). -/
inductive Request where
  | getStatusDev | getStatusEp | clearFeatureEp | setFeatureEp | setAddress | getDescriptor
  | getConfiguration | setConfiguration | other
deriving DecidableEq, Repr

/-- Which row the code `bRequest ++ bmRequestType` selects (R114, 44 R243): "exactly one row matches". -/
def classifyRequest (c : Config) (bRequest bmRequestType : Byte) : Request :=
  let code : BitVec 16 := bRequest ++ bmRequestType
  if code = 0x0500 then .setAddress
  else if code = 0x0900 then .setConfiguration
  else if code = 0x0880 then .getConfiguration
  else if code = 0x0080 then .getStatusDev
  else if code = 0x0082 then .getStatusEp
  else if code = 0x0102 then .clearFeatureEp
  else if code = 0x0302 then .setFeatureEp
  else if c.isGetDescriptor bRequest bmRequestType then .getDescriptor
  else .other

/-- The instruction of a 16-bit request code. -/
def decodeReq (c : Config) (code : BitVec 16) : Instr :=
  let b : Byte := code.extractLsb' 8 8
  let bm : Byte := code.extractLsb' 0 8
  match classifyRequest c b bm with
  | .getStatusDev => .reqGetStatusDev
  | .getStatusEp => .reqGetStatusEp
  | .clearFeatureEp => .reqClearFeatureEp
  | .setFeatureEp => .reqSetFeatureEp
  | .setAddress => .reqSetAddress
  | .getDescriptor => .reqGetDescriptor bm
  | .getConfiguration => .reqGetConfiguration
  | .setConfiguration => .reqSetConfiguration
  | .other => .reqOther b bm

/-- Token kinds the endpoint-0 handler tells apart (R115). -/
inductive TokKind where
  | setup | out | in_ | other
deriving DecidableEq, Repr

def classifyTok (tok : BitVec 4) : TokKind :=
  if tok = tokSETUP then .setup else if tok = tokOUT then .out else if tok = tokIN then .in_ else .other

/-- The instruction of a token kind in the completed slot `slot`. -/
def decodeTok (slot : SlotIx) (tok : BitVec 4) : Instr :=
  match classifyTok tok with
  | .setup => .tokSetup slot
  | .out => .tokOut slot
  | .in_ => .tokIn slot
  | .other => .tokOther slot tok

/-- The instruction of an interrupt-status value: its first set bit in the handling order of 45 R300, the two
unhandled bits last (R106); none where no bit is set. -/
def decodeIst (v : Byte) : Option Instr :=
  if v.getLsbD 2 then some .irqSof
  else if v.getLsbD 3 then some .irqTokdne
  else if v.getLsbD 0 then some .irqReset
  else if v.getLsbD 7 then some .irqStall
  else if v.getLsbD 1 then some .irqError
  else if v.getLsbD 4 then some .irqSleep
  else if v.getLsbD 5 then some .istResume
  else if v.getLsbD 6 then some .istAttach
  else none

/-- Where ROUTE sends a status byte (45 R304, R307, R308). -/
inductive RouteKind where
  | ep0 | txdone | rxdoneZero | rxdoneData | ignore
deriving DecidableEq, Repr

/-- The route of a status byte, given the byte count of the slot it names. -/
def classifyStat (c : Config) (count : BitVec 10) (st : Byte) : RouteKind :=
  if statEp st = 0 then .ep0
  else if c.nEp.toNat < (statEp st).toNat then .ignore
  else match statDir st with
    | .tx => .txdone
    | .rx => if count = 0 then .rxdoneZero else .rxdoneData

/-- The instruction of a status byte. -/
def decodeStat (c : Config) (count : BitVec 10) (st : Byte) : Instr :=
  match classifyStat c count st with
  | .ep0 => .routeEp0 st
  | .txdone => .routeTxdone st
  | .rxdoneZero => .routeRxdoneZero st
  | .rxdoneData => .routeRxdoneData st
  | .ignore => .routeIgnore st

/-- The three forms of a descriptor word (R102 to R104). -/
inductive DescForm where
  | armed | completed | unarmed
deriving DecidableEq, Repr

/-- The form of a word: `own` = 1 is armed, every field zero is unarmed, another is completed. Reserved bits are
"ignored on read" (R119 (e)), so every word has a form. -/
def classifyDesc (w : Word) : DescForm :=
  if descOwn w then .armed
  else if completedWord (descCount w) (descTog w) (descTok w) = unarmedWord then .unarmed
  else .completed

/-- The instruction of a descriptor word written to `slot`. -/
def decodeDesc (slot : SlotIx) (w : Word) : Instr :=
  match classifyDesc w with
  | .armed => .descArmed slot (descCount w) ⟨descTog w, descFlags w⟩
  | .completed => .descCompleted slot (descCount w) (descTog w) (descTok w)
  | .unarmed => .descUnarmed slot

/-! ## Trace lines: command and link codes (R117, R118) -/

/-- Why a trace line spells no operation (R119 (g): "a trace decoder rejects them"). -/
inductive DecodeError where
  /-- a code outside R117 and R118 -/
  | unknownCode (code : Byte)
  /-- the line ends before the operands do -/
  | truncated
  /-- an operand byte outside its field: a direction, bank or toggle byte above 1, a byte count above 1023 -/
  | badOperand
  /-- bytes after the last operand -/
  | trailing
deriving DecidableEq, Repr

/-- A one-bit operand: the byte 0 or 1. -/
def bitOperand (b : Byte) : Except DecodeError Bool :=
  if b = 0 then .ok false else if b = 1 then .ok true else .error .badOperand

/-- A byte count of 10 bits in two bytes, low byte first; the six bits above it are zero (R102). -/
def countOperand (lo hi : Byte) : Except DecodeError (BitVec 10) :=
  if (ofBytes16 lo hi).toNat < 1024 then .ok ((ofBytes16 lo hi).setWidth 10) else .error .badOperand

/-- Exactly `n` bytes and the rest. -/
def takeBytes (n : Nat) (bs : List Byte) : Except DecodeError (List Byte × List Byte) :=
  if bs.length < n then .error .truncated else .ok (bs.take n, bs.drop n)

/-- The operand forms of R117 and R118, each a reader of the bytes after the code (log 9). -/
def readEp (k : Byte → Instr) : List Byte → Except DecodeError (Instr × List Byte)
  | ep :: bs => .ok (k ep, bs)
  | _ => .error .truncated

def readPkt (k : BitVec 16 → Instr) : List Byte → Except DecodeError (Instr × List Byte)
  | p0 :: p1 :: bs => .ok (k (ofBytes16 p0 p1), bs)
  | _ => .error .truncated

def readEpPkt (k : Byte → BitVec 16 → Instr) : List Byte → Except DecodeError (Instr × List Byte)
  | ep :: p0 :: p1 :: bs => .ok (k ep (ofBytes16 p0 p1), bs)
  | _ => .error .truncated

def readEpAddrCount (k : Byte → Word → BitVec 10 → Instr) :
    List Byte → Except DecodeError (Instr × List Byte)
  | ep :: a0 :: a1 :: a2 :: a3 :: n0 :: n1 :: bs =>
      (countOperand n0 n1).map fun n => (k ep (ofBytes32 a0 a1 a2 a3) n, bs)
  | _ => .error .truncated

def readAddrCount (k : Word → BitVec 10 → Instr) : List Byte → Except DecodeError (Instr × List Byte)
  | a0 :: a1 :: a2 :: a3 :: n0 :: n1 :: bs =>
      (countOperand n0 n1).map fun n => (k (ofBytes32 a0 a1 a2 a3) n, bs)
  | _ => .error .truncated

def readWord (k : Word → Instr) : List Byte → Except DecodeError (Instr × List Byte)
  | a0 :: a1 :: a2 :: a3 :: bs => .ok (k (ofBytes32 a0 a1 a2 a3), bs)
  | _ => .error .truncated

def readEpDir (k : Byte → Dir → Instr) : List Byte → Except DecodeError (Instr × List Byte)
  | ep :: d :: bs => (bitOperand d).map fun d => (k ep (.ofBool d), bs)
  | _ => .error .truncated

def readEpDirBank (k : Byte → Dir → Bank → Instr) : List Byte → Except DecodeError (Instr × List Byte)
  | ep :: d :: b :: bs =>
      (bitOperand d).bind fun d => (bitOperand b).map fun b => (k ep (.ofBool d) (.ofBool b), bs)
  | _ => .error .truncated

/-- The six operands of BDT.WRITE. -/
def readBdtWrite : List Byte → Except DecodeError (Instr × List Byte)
  | ep :: d :: b :: n0 :: n1 :: t :: a0 :: a1 :: a2 :: a3 :: bs =>
      (bitOperand d).bind fun d => (bitOperand b).bind fun b => (countOperand n0 n1).bind fun n =>
        (bitOperand t).map fun t =>
          (.bdtWrite ep (.ofBool d) (.ofBool b) n (.ofBool t) (ofBytes32 a0 a1 a2 a3), bs)
  | _ => .error .truncated

/-- LINK.OUT: endpoint, toggle, a length of at most 1023 in two bytes, the payload. -/
def readLinkOut : List Byte → Except DecodeError (Instr × List Byte)
  | ep :: t :: n0 :: n1 :: bs =>
      (bitOperand t).bind fun t => (countOperand n0 n1).bind fun n =>
        (takeBytes n.toNat bs).map fun p => (.linkOut ep (.ofBool t) p.1, p.2)
  | _ => .error .truncated

/-- The operation a trace spells first, and the bytes after it; total on any bytes. Code 0x10 is ALLOC in a
SharedBitmap build and ALLOC.SEG in a Segregated one (opcode_table.json: "same code as ALLOC"). -/
def decodeTrace (c : Config) : List Byte → Except DecodeError (Instr × List Byte)
  | [] => .error .truncated
  | code :: bs =>
    if code = 0x01 then .ok (.busInit, bs)
    else if code = 0x02 then .ok (.irqEntry, bs)
    else if code = 0x10 then
      match c.allocStrategy with
      | .sharedBitmap => readEp .alloc bs
      | .segregated => readEp .allocSeg bs
    else if code = 0x11 then readPkt .release bs
    else if code = 0x20 then readEpPkt .txSubmit bs
    else if code = 0x21 then readEpAddrCount .isoSubmit bs
    else if code = 0x30 then readEp .rxDequeue bs
    else if code = 0x31 then readEp .rxBytes bs
    else if code = 0x32 then readEp .txPkts bs
    else if code = 0x33 then readEp .rxPkts bs
    else if code = 0x40 then .ok (.csEnter, bs)
    else if code = 0x41 then .ok (.csExit, bs)
    else if code = 0x50 then readAddrCount .ep0Transmit bs
    else if code = 0x51 then readWord .setRebootTimer bs
    else if code = 0x60 then readBdtWrite bs
    else if code = 0x61 then readEpDirBank .bdtReadc bs
    else if code = 0x80 then (takeBytes 8 bs).map fun p => (.linkSetup p.1, p.2)
    else if code = 0x81 then readLinkOut bs
    else if code = 0x82 then readEp .linkIn bs
    else if code = 0x83 then .ok (.linkSof, bs)
    else if code = 0x84 then .ok (.linkReset, bs)
    else if code = 0x85 then readEp .linkError bs
    else if code = 0x86 then .ok (.linkSleep, bs)
    else if code = 0x87 then readEp .linkStalled bs
    else if code = 0x88 then readEpDir .linkNak bs
    else .error (.unknownCode code)

/-- One trace line (R122: "One step per line"): one operation and nothing after it. -/
def decodeLine (c : Config) (bs : List Byte) : Except DecodeError Instr :=
  match decodeTrace c bs with
  | .ok (i, []) => .ok i
  | .ok (_, _ :: _) => .error .trailing
  | .error e => .error e

/-! ## The encoder -/

/-- The formats of R100 that a row of the opcode table can have. -/
inductive Format where
  | req16 | tok4 | istat8 | stat8 | cmd8 | link8 | desc32 | proc
deriving DecidableEq, Repr

/-- A boolean as a one-bit operand byte. -/
def bitByte (v : BitVec 1) : Byte := v.setWidth 8

/-- A byte count as two bytes, low byte first. -/
def countBytes (n : BitVec 10) : List Byte := toBytes16 (n.setWidth 16)

/-- The row's format and the bytes of the instruction: for commands and link events the code and its
operands, for the other formats the word, low byte first; a procedure has no encoding. -/
def encode : Instr → Format × List Byte
  | .reqGetStatusDev => (.req16, toBytes16 0x0080)
  | .reqGetStatusEp => (.req16, toBytes16 0x0082)
  | .reqClearFeatureEp => (.req16, toBytes16 0x0102)
  | .reqSetFeatureEp => (.req16, toBytes16 0x0302)
  | .reqSetAddress => (.req16, toBytes16 0x0500)
  | .reqGetDescriptor bm => (.req16, [bm, 0x06])
  | .reqGetConfiguration => (.req16, toBytes16 0x0880)
  | .reqSetConfiguration => (.req16, toBytes16 0x0900)
  | .reqOther b bm => (.req16, [bm, b])
  | .tokSetup _ => (.tok4, [0x0D])
  | .tokOut _ => (.tok4, [0x01])
  | .tokIn _ => (.tok4, [0x09])
  | .tokOther _ tok => (.tok4, [tok.setWidth 8])
  | .irqSof => (.istat8, [0x04])
  | .irqTokdne => (.istat8, [0x08])
  | .irqReset => (.istat8, [0x01])
  | .irqStall => (.istat8, [0x80])
  | .irqError => (.istat8, [0x02])
  | .irqSleep => (.istat8, [0x10])
  | .istResume => (.istat8, [0x20])
  | .istAttach => (.istat8, [0x40])
  | .routeEp0 st => (.stat8, [st])
  | .routeTxdone st => (.stat8, [st])
  | .routeRxdoneZero st => (.stat8, [st])
  | .routeRxdoneData st => (.stat8, [st])
  | .routeIgnore st => (.stat8, [st])
  | .busInit => (.cmd8, [0x01])
  | .irqEntry => (.cmd8, [0x02])
  | .alloc ep => (.cmd8, [0x10, ep])
  | .allocSeg ep => (.cmd8, [0x10, ep])
  | .release p => (.cmd8, 0x11 :: toBytes16 p)
  | .txSubmit ep p => (.cmd8, 0x20 :: ep :: toBytes16 p)
  | .isoSubmit ep a n => (.cmd8, 0x21 :: ep :: (toBytes32 a ++ countBytes n))
  | .rxDequeue ep => (.cmd8, [0x30, ep])
  | .rxBytes ep => (.cmd8, [0x31, ep])
  | .txPkts ep => (.cmd8, [0x32, ep])
  | .rxPkts ep => (.cmd8, [0x33, ep])
  | .csEnter => (.cmd8, [0x40])
  | .csExit => (.cmd8, [0x41])
  | .ep0Transmit a n => (.cmd8, 0x50 :: (toBytes32 a ++ countBytes n))
  | .setRebootTimer n => (.cmd8, 0x51 :: toBytes32 n)
  | .bdtWrite ep d b n t a =>
      (.cmd8, 0x60 :: ep :: bitByte d.bit :: bitByte b.bit :: (countBytes n ++ bitByte t.bit :: toBytes32 a))
  | .bdtReadc ep d b => (.cmd8, [0x61, ep, bitByte d.bit, bitByte b.bit])
  | .linkSetup data => (.link8, 0x80 :: data)
  | .linkOut ep t data =>
      (.link8, 0x81 :: ep :: bitByte t.bit :: (toBytes16 (BitVec.ofNat 16 data.length) ++ data))
  | .linkIn ep => (.link8, [0x82, ep])
  | .linkSof => (.link8, [0x83])
  | .linkReset => (.link8, [0x84])
  | .linkError m => (.link8, [0x85, m])
  | .linkSleep => (.link8, [0x86])
  | .linkStalled ep => (.link8, [0x87, ep])
  | .linkNak ep d => (.link8, [0x88, ep, bitByte d.bit])
  | .bdtClear => (.proc, [])
  | .linkComplete _ _ => (.proc, [])
  | .poolReturn _ => (.proc, [])
  | .starvedTarget _ => (.proc, [])
  | .redirect _ _ => (.proc, [])
  | .rxqEnqueue _ _ => (.proc, [])
  | .txqAppend _ _ => (.proc, [])
  | .txqPop _ => (.proc, [])
  | .txComplete _ _ => (.proc, [])
  | .txCompleteTableA _ _ => (.proc, [])
  | .txCompleteTableB _ _ => (.proc, [])
  | .teardownBankMap _ => (.proc, [])
  | .ep0Handle _ => (.proc, [])
  | .ep0Setup _ => (.proc, [])
  | .reqDispatch => (.proc, [])
  | .ep0Send _ _ => (.proc, [])
  | .ep0In _ => (.proc, [])
  | .ep0Out _ => (.proc, [])
  | .ep0Stall => (.proc, [])
  | .route _ => (.proc, [])
  | .txdone _ _ _ => (.proc, [])
  | .rxdone _ _ _ => (.proc, [])
  | .descArmed _ n b => (.desc32, toBytes32 (armedForm n b.tog b.flags))
  | .descCompleted _ n t tok => (.desc32, toBytes32 (completedWord n t tok))
  | .descUnarmed _ => (.desc32, toBytes32 unarmedWord)

/-! ## The opcode table's words -/

/-- A trace line for a code byte with operand bytes of zero: the code and as many zeros as its operands
take (the longest takes 10). -/
def zeroLine (c : Config) (code : Byte) : Except DecodeError (Instr × List Byte) :=
  match decodeTrace c (code :: List.replicate 10 0) with
  | .ok (i, rest) => .ok (i, (code :: List.replicate 10 0).take (11 - rest.length))
  | .error e => .error e

/-- Where the block finds a word of the opcode table. Formats of one width share words, so one byte is read
as a command or link code if it is one, else as one interrupt condition, else as a token kind, else as a
status byte (log 23). -/
inductive Place where
  | trace (line : List Byte) | istat (v : Byte) | tok (t : BitVec 4) | stat (st : Byte)
deriving DecidableEq, Repr

/-- The place of an 8-bit word. -/
def placeOfByte (c : Config) (b : Byte) : Place :=
  match zeroLine c b with
  | .ok (_, line) => .trace line
  | .error _ =>
    if b = 0x04 || b = 0x08 then .istat b
    else if b = 0x0D || b = 0x09 then .tok (b.setWidth 4)
    else .stat b

/-- The slot a descriptor word of the table is placed at (log 23): an IN completion and an armed word at endpoint
0's EVEN transmit slot, another word at its EVEN receive slot. -/
def placeOfDesc (w : Word) : SlotIx := if descOwn w || descTok w = tokIN then slotOf 0 .tx .even else 0

/-- The instruction the decoders read from a table word of `nbits` bits (operand bits beyond them zero): 16
bits are a request code, 32 bits a descriptor word, 8 bits as `placeOfByte` says. -/
def decodeTableWord (nbits w : Nat) : Option Instr :=
  if nbits = 16 then some (decodeReq Config.default (BitVec.ofNat 16 w))
  else if nbits = 32 then some (decodeDesc (placeOfDesc (BitVec.ofNat 32 w)) (BitVec.ofNat 32 w))
  else if nbits = 8 then
    match placeOfByte Config.default (BitVec.ofNat 8 w) with
    | .trace line =>
        match decodeLine Config.default line with
        | .ok i => some i
        | .error _ => none
    | .istat v => decodeIst v
    | .tok t => some (decodeTok 0 t)
    | .stat st => some (decodeStat Config.default 0 st)
  else none

end Sys2Proof
end

