-- ==== Sys2Proof/Machine/State.lean ====
section
/-! DEFINITION. The state of the block and of the link it talks to (spec/10_state.md R20), its value after
reset, and the reasons a step can stop. Plain data throughout. -/

namespace Sys2Proof.Machine

/-- Why the machine stops with a recorded fault (00_scope.md R7). -/
inductive Fault where
  /-- "fault(endpoint index out of range)": GET_STATUS(endpoint), CLEAR_FEATURE or SET_FEATURE with an
  index that passes the `>` check of `E_CMP` and exceeds `N_EP` (44_control_transfer.md R245); raised by
  the three endpoint request handlers. Safe: the machine stops where the spec faults. -/
  | endpointIndexOutOfRange
  /-- A buffer that runs past the last address of the 32-bit space (20_memory.md R70, R76); raised by a
  link completion, by the endpoint-0 handlers and by an application store. Safe. -/
  | addressOutsideSpace
deriving DecidableEq, Repr

/-- Why a step is refused: `refuse` of 00_scope.md R7, "the spec gives the situation no meaning". -/
inductive Refusal where
  /-- An instruction without a meaning in this model; raised by `exec` alone. Safe. -/
  | notModelled (mnemonic : String)
  /-- A packet returned to the pool, or put into a receive queue, that is free (41_allocator.md R175, 10_state.md R41);
  raised by pool_return, RELEASE, REDIRECT, RXQ.ENQUEUE, RXDONE and the teardown of SET_CONFIGURATION. Safe. -/
  | packetFree
  /-- A command on a packet the caller does not hold: it is free, queued, in a slot, or no packet at all
  (10_state.md R41, 93 U12); raised by RELEASE, pool_return, TX.SUBMIT and the application's packet writes.
  Safe. -/
  | packetNotHeld
  /-- A packet put into a queue, a slot or the pool while it is in a queue, an Armed slot or another slot's waiting
  completion (42_queues.md R191, 41_allocator.md R176, 10_state.md R41); raised by RXQ.ENQUEUE, TXQ.APPEND, REDIRECT
  and the release of a completed transmit packet. Safe. -/
  | packetBusy
  /-- `p.len` above `PKT_CAP` at TX.SUBMIT, a fill above it, or a read cursor beyond `len`
  (43_bank_allocator.md R211, 10_state.md R40). Safe. -/
  | packetTooLong
  /-- RXQ.ENQUEUE of a packet of length 0 (42_queues.md R191). Safe. -/
  | emptyPacket
  /-- TX.SUBMIT and ISO.SUBMIT mixed on one endpoint (43_bank_allocator.md R220). Safe. -/
  | mixedDiscipline
  /-- An isochronous buffer or an application store that is not in the application's memory: it meets the
  table, a packet or an endpoint-0 buffer (for a store, but `reply_buf` while a transfer is open), or, for a buffer, the
  descriptor store (43_bank_allocator.md R220, 93 U12, 70_reset_and_hazards.md R386 (f), 44_control_transfer.md R269);
  raised by ISO.SUBMIT and the application's stores. Safe. -/
  | notApplicationBuffer
  /-- A slot whose address lies in the descriptor table, which the link does not reach as a buffer
  (20_memory.md R70); raised by link completions and the endpoint-0 handlers. Safe. -/
  | bufferOverlapsTable
  /-- A receive completion on a non-control endpoint whose address is no packet buffer
  (45_dispatcher.md R308). Safe. -/
  | completionNotPacket
  /-- BDT.WRITE, DESC.ARMED, DESC.UNARMED or BDT.READC from outside on a slot the link owns (40 R141, 93 U12), or a
  write to one whose completion waits in `stat_fifo` (60 R345: "a slot the block manages"; log 29). Safe. -/
  | slotOwned
  /-- BDT.WRITE or BDT.READC with `ep` above `N_EP`, or a descriptor write beyond the table (40 R140).
  Safe. -/
  | slotOutsideTable
  /-- A receive slot armed from outside with a count above the capacity of the buffer at its address
  (30_encoding.md R119 (h), 20_memory.md R83); raised by BDT.WRITE and DESC.ARMED. Safe. -/
  | countAboveCapacity
  /-- A length to send that runs past the caller's buffer: past the buffer or region the address is in, or past the space
  (20_memory.md R83, 60_exceptions.md R345); raised by BDT.WRITE, DESC.ARMED, EP0.TRANSMIT and ISO.SUBMIT. Safe. -/
  | pastBuffer
  /-- A receive slot armed from outside in the descriptor store, or a receive completion into it, which the link only
  reads (20_memory.md R70, R86); raised by BDT.WRITE, DESC.ARMED, LINK.SETUP, LINK.OUT and DESC.COMPLETED. Safe. -/
  | storeReadOnly
  /-- An application's write over bytes the link has still to read: an Armed transmit buffer, or a descriptor whose
  reply is under way (20_memory.md R84, R86, 70_reset_and_hazards.md R386 (f), R393). Safe. -/
  | bufferInFlight
  /-- A hook's `Reply` longer than `REPLY_BUF_SIZE` (44_control_transfer.md R254). Safe. -/
  | replyTooLong
  /-- SET_REBOOT_TIMER above `TIMER_MAX` (45_dispatcher.md R318). Safe. -/
  | timerAboveMax
  /-- EP0.TRANSMIT of more than `EP0_SIZE` bytes (44_control_transfer.md R256). Safe. -/
  | ep0TooLong
  /-- EP0.TRANSMIT as a command with no control transfer open (44_control_transfer.md R256). Safe. -/
  | noTransferOpen
  /-- CS.ENTER inside a critical section (60_exceptions.md R353). Safe. -/
  | nestedSection
  /-- CS.EXIT outside a critical section (60_exceptions.md R353). Safe. -/
  | noSection
  /-- BUS.INIT inside a critical section or while the handler runs (60_exceptions.md R353,
  45_dispatcher.md R316). Safe. -/
  | busInitContext
  /-- `BDT_BASE` not a multiple of `BDT_ALIGN` (20_memory.md R72); raised by BUS.INIT. Safe. -/
  | tableMisaligned
deriving DecidableEq, Repr

/-- One BDT slot: the words `desc` and `addr` (10_state.md R21). -/
structure Slot where
  desc : Word
  addr : Word
deriving DecidableEq, Repr

/-- The register block and the status queue behind `STAT` (10_state.md R24 to R32, R34). -/
structure Regs where
  endpt     : Tab 4 Byte
  addr      : BitVec 7
  bdtPage   : Word
  intEn     : Byte
  /-- every bit of `ISTAT` but `tokdne` (bit 3), which is read off `statFifo` (R32; log 13) -/
  istat     : Byte
  errStat   : Byte
  errEn     : Byte
  otgIstat  : Byte
  ctlEnable : Bool
  ctlOddrst : Bool
  suspended : Bool
  /-- `stat_fifo`, oldest first -/
  statFifo  : List Byte
deriving DecidableEq, Repr

/-- A packet's header (10_state.md R40); its `buf` is in `mem` and its `next` in the list that holds it. -/
structure Pkt where
  len   : Nat
  index : Nat
  owner : Nat
deriving DecidableEq, Repr

/-- Packets and the allocator's free structures (10_state.md R40, R42). -/
structure Pool where
  pkts     : List Pkt
  freeMap  : Word
  freeList : Tab 4 (List Nat)
deriving DecidableEq, Repr

/-- Which transmit operation an endpoint has used since the last SET_CONFIGURATION: the model's own record,
needed to mark the `refuse` of 43_bank_allocator.md R220 (log 17). -/
inductive Discipline where
  | unused | packet | iso
deriving DecidableEq, Repr

/-- State of one non-control endpoint (10_state.md section 6). -/
structure Endpoint where
  rxq        : List Nat
  rxBytes    : Nat
  txq        : List Nat
  txState    : TxState
  epCfg      : Byte
  isoBank    : Bank
  starved    : Bool
  discipline : Discipline
deriving DecidableEq, Repr

/-- The captured SETUP packet (10_state.md R49). -/
structure Setup where
  bmRequestType : Byte
  bRequest      : Byte
  wValue        : BitVec 16
  wIndex        : BitVec 16
  wLength       : BitVec 16
deriving DecidableEq, Repr

/-- The ghost phase of a control transfer (10_state.md R56). -/
inductive Phase where
  | idle | setupReceived | dataStage | statusStage
deriving DecidableEq, Repr

/-- Endpoint 0 (10_state.md R49 to R53, R56). -/
structure Ep0 where
  setup         : Setup
  txPtr         : Option Word
  txLen         : Nat
  txToggle      : Toggle
  txBank        : Bank
  configuration : Byte
  addrPending   : Bool
  addrLatch     : BitVec 7
  phase         : Phase
  /-- a control transfer is open: the model's own record, needed to mark the `refuse` of
  44_control_transfer.md R256 without reading the ghost phase (log 18) -/
  transferOpen  : Bool
deriving DecidableEq, Repr

/-- Where the dispatcher's loop stands between two ISR steps (45_dispatcher.md R300, R351; log 8): `top`
reads `ISTAT`; the other points test the rest of the pass's `status`. -/
inductive IsrPoint where
  | top | afterSof | afterStall | afterError
deriving DecidableEq, Repr

/-- Timers and context flags (10_state.md R54, R55, R57) and the dispatcher's position. -/
structure Ctx where
  rebootTimer : Nat
  irqMask     : Bool
  inIsr       : Bool
  errSnapshot : Byte
  isrPoint    : IsrPoint
  /-- `status`, the value read at the top of the pass -/
  isrStatus   : Byte
deriving DecidableEq, Repr

/-- A write of the application (70_reset_and_hazards.md R386; log 10). -/
inductive AppAct where
  /-- fill a packet the caller holds: its bytes, and `len` their number -/
  | fill (pkt : Nat) (bytes : List Byte)
  /-- move the read cursor of a packet the caller holds -/
  | cursor (pkt : Nat) (index : Nat)
  /-- store to an application buffer or the descriptor store -/
  | store (addr : Word) (bytes : List Byte)
deriving DecidableEq, Repr

/-- What a hook may call (60_exceptions.md R354, R360). The rules name the six operations; that a hook also makes the
application's writes to memory it holds (`app`) is the model's choice, DESIGN CHOICE (log 11). -/
inductive HookCall where
  | alloc (ep : Byte)
  | release (pkt : BitVec 16)
  | txSubmit (ep : Byte) (pkt : BitVec 16)
  | isoSubmit (ep : Byte) (addr : Word) (n : BitVec 10)
  | ep0Transmit (addr : Word) (n : BitVec 10)
  | setRebootTimer (n : BitVec 32)
  | app (a : AppAct)
deriving DecidableEq, Repr

/-- Outcome of a class-request hook (44_control_transfer.md R254). -/
inductive ClassOutcome where
  | notHandled | reply (bytes : List Byte) | deferred
deriving DecidableEq, Repr

/-- One answer of a class hook: what it calls, its outcome, its optional reboot-timer value. -/
structure ClassAnswer where
  calls   : List HookCall
  outcome : ClassOutcome
  timer   : Option Nat
deriving DecidableEq, Repr

/-- Outcome of the OUT-data hook (44_control_transfer.md R261). -/
inductive OutOutcome where
  | ack | defer | notRecognised
deriving DecidableEq, Repr

/-- One answer of the OUT-data hook. -/
structure OutAnswer where
  calls   : List HookCall
  outcome : OutOutcome
  timer   : Option Nat
deriving DecidableEq, Repr

/-- One item of the environment's schedule (30_encoding.md R122; log 6). -/
inductive Input where
  /-- a trace line: a command or link code with its operands -/
  | line (bytes : List Byte)
  /-- a 32-bit write of a descriptor word to a slot of the shared table -/
  | descWord (slot : SlotIx) (w : Word)
  /-- a write of the application -/
  | app (a : AppAct)
deriving DecidableEq, Repr

/-- Output events (00_scope.md R7, R9). -/
inductive Event where
  /-- `SENT(ep, toggle, bytes)` (40_bdt_link.md R148) -/
  | sent (ep : Ep) (tog : Toggle) (bytes : List Byte)
  /-- `REBOOT_TRIGGER` (45_dispatcher.md R302) -/
  | rebootTrigger
deriving DecidableEq, Repr

/-- The result of an operation (30_encoding.md R117, column result; log 15, 27). -/
inductive Result where
  | unit
  | packet (p : Option Nat)
  | count (n : Nat)
  | completion (n : Nat) (addr : Word)
  | endpoint (e : Option Ep)
  | bankState (st : TxState)
deriving DecidableEq, Repr

/-- The model's own fields for the outside world. -/
structure Env where
  trace        : List Input
  classAnswers : List ClassAnswer
  outAnswers   : List OutAnswer
  tickScripts  : List (List HookCall)
  /-- output events so far, oldest first -/
  out          : List Event
  result       : Result
  freeCount    : Nat
deriving DecidableEq, Repr

/-- The whole state (10_state.md R20). -/
structure State where
  cfg    : Config
  regs   : Regs
  bdt    : Tab 6 Slot
  /-- `hw_bank[e][d]` at `epDir e d` (10_state.md R33) -/
  hwBank : Tab 5 Bank
  pool   : Pool
  /-- the non-control endpoints 1..N_EP (cell 0 unused) -/
  eps    : Tab 4 Endpoint
  ep0    : Ep0
  ctx    : Ctx
  /-- bytes of regions 2 to 5 of 20_memory.md R70, sorted by address; unlisted bytes read `unlistedByte` -/
  mem    : List Host.Cell
  env    : Env
deriving DecidableEq, Repr

/-- What an address the memory does not list reads as: the spec gives buffers no contents (93 U3), DESIGN
CHOICE zero (log 5). -/
def unlistedByte : Byte := 0

/-- An endpoint after BUS.INIT (10_state.md R20). -/
def Endpoint.init : Endpoint :=
  ⟨[], 0, [], .bothFreeEvenFirst, 0, .even, false, .unused⟩

/-- The owner tags after BUS.INIT: under Segregated the pools take the packets in ascending order, under
SharedBitmap a packet's owner is its own number (10_state.md R40, 41_allocator.md R173; log 32). -/
def initOwners (c : Config) : List Nat :=
  match c.allocStrategy with
  | .sharedBitmap => List.range c.numBuffers
  | .segregated => c.endpoints.flatMap fun e => List.replicate (c.poolSize.get e) e.toNat

/-- Fresh headers: `len` and `index` are unspecified after BUS.INIT, DESIGN CHOICE 0 (log 4). -/
def initPkts (c : Config) : List Pkt := (initOwners c).map fun o => ⟨0, 0, o⟩

/-- All `NUM_BUFFERS` bits free, slot `i` at bit 31−i (41_allocator.md R171); no bit under Segregated. -/
def initFreeMap (c : Config) : Word :=
  match c.allocStrategy with
  | .sharedBitmap => BitVec.allOnes 32 <<< (32 - c.numBuffers)
  | .segregated => 0

/-- Under Segregated each list holds the packets its endpoint owns (41_allocator.md R173). -/
def initFreeList (c : Config) : Tab 4 (List Nat) :=
  match c.allocStrategy with
  | .sharedBitmap => Tab.fill []
  | .segregated =>
      c.endpoints.foldl (fun t e =>
        t.set e ((List.range c.numBuffers).filter fun i => (initOwners c)[i]? = some e.toNat))
        (Tab.fill [])

/-- The registers after BUS.INIT (45_dispatcher.md R316). -/
def Regs.init (c : Config) : Regs where
  endpt := Tab.fill 0
  addr := 0
  bdtPage := c.bdtBase
  intEn := 0x01
  istat := 0
  errStat := 0
  errEn := 0
  otgIstat := 0
  ctlEnable := true
  ctlOddrst := false
  suspended := false
  statFifo := []

/-- The state BUS.INIT leaves for the parameters `c`, where nothing was before it (70 R382). -/
def State.initial (c : Config) : State where
  cfg := c
  regs := Regs.init c
  bdt := Tab.fill ⟨0, 0⟩
  hwBank := Tab.fill .even
  pool := ⟨initPkts c, initFreeMap c, initFreeList c⟩
  eps := Tab.fill Endpoint.init
  ep0 := ⟨⟨0, 0, 0, 0, 0⟩, none, 0, .data0, .even, 0, false, 0, .idle, false⟩
  ctx := ⟨0, false, false, 0, .top, 0⟩
  mem := []
  env := ⟨[], [], [], [], [], .unit, 0⟩

/-- The machine right after reset: "a model either starts from the state BUS.INIT produces or ..."
(70_reset_and_hazards.md R381), with the default parameters. -/
def State.reset : State := State.initial Config.default

end Sys2Proof.Machine
end

