-- ==== Sys2Proof/Machine/Ops.lean ====
section
/-! DEFINITION. The named operations over the state: outcomes in sequence, memory bytes, the slots, the
per-endpoint records and packet headers, the transmit of a descriptor, outputs and results, and taking and
leaving the interrupt. -/

namespace Sys2Proof.Machine

/-- One step's outcome. -/
abbrev Out := Host.Outcome State Fault Refusal

/-- Run `k` on the next state, or stop as `o` stopped. -/
def andThen (o : Out) (k : State → Out) : Out :=
  match o with
  | .next s => k s
  | .fault f => .fault f
  | .refused r => .refused r

/-- Run `f` over a list, left to right, stopping at the first stop. -/
def forEach {α : Type} (f : α → State → Out) : List α → State → Out
  | [], s => .next s
  | a :: as, s => andThen (f a s) (forEach f as)

/-! ## Memory (20_memory.md R70, R73) -/

/-- The byte at `a`: the listed one, else what an unlisted address reads as. -/
def memGet : List Host.Cell → Nat → Byte
  | [], _ => unlistedByte
  | (k, v) :: m, a => if a < k then unlistedByte else if a = k then v else memGet m a

/-- Write one byte, keeping the list sorted and free of entries that an unlisted address reads as. -/
def memPut : List Host.Cell → Nat → Byte → List Host.Cell
  | [], a, v => if v = unlistedByte then [] else [(a, v)]
  | (k, w) :: m, a, v =>
    if a < k then (if v = unlistedByte then (k, w) :: m else (a, v) :: (k, w) :: m)
    else if a = k then (if v = unlistedByte then m else (a, v) :: m)
    else (k, w) :: memPut m a v

/-- The canonical form: addresses strictly rising from `lo` on and below 2^32, no entry equal to an unlisted
byte. -/
def memWfFrom : Nat → List Host.Cell → Bool
  | _, [] => true
  | lo, (k, v) :: m => lo ≤ k && k < 2 ^ 32 && v != unlistedByte && memWfFrom (k + 1) m

/-- The canonical form of memory. -/
def memWf (m : List Host.Cell) : Bool := memWfFrom 0 m

/-- `MemRead(a, n)`: the `n` bytes at `a, a+1, ...` (00_scope.md R7). -/
def memRead (m : List Host.Cell) (a : Word) : Nat → List Byte
  | 0 => []
  | n + 1 => memGet m a.toNat :: memRead m (a + 1) n

/-- `MemWrite(a, |bs|, bs)`: the bytes at `a, a+1, ...` (00_scope.md R7). -/
def memWrite (m : List Host.Cell) (a : Word) : List Byte → List Host.Cell
  | [] => m
  | b :: bs => memWrite (memPut m a.toNat b) (a + 1) bs

/-- The byte a state holds at an address. -/
def State.byte (s : State) (a : Word) : Byte := memGet s.mem a.toNat

/-- `MemWrite` on a state. -/
def State.store (s : State) (a : Word) (bs : List Byte) : State := { s with mem := memWrite s.mem a bs }

/-- A buffer access of `n` bytes at `a` goes on with `k`, unless the span leaves the address space or meets
the descriptor table (20_memory.md R70: the regions do not overlap; log 24). -/
def withSpan (c : Config) (a : Word) (n : Nat) (k : Out) : Out :=
  if 2 ^ 32 < a.toNat + n then .fault .addressOutsideSpace
  else if spansApart (a.toNat, n) c.tableSpan then k
  else .refused .bufferOverlapsTable

/-- The bytes of an entry of the descriptor store: its fixed length, or a string's own length byte and what it counts
(44_control_transfer.md R249). -/
def State.entryLength (s : State) (e : DescEntry) : Nat :=
  if e.isString then max 1 (s.byte e.addr).toNat else e.length

/-- The descriptor store as (base, size), one span an entry (20_memory.md R70, region 4). -/
def State.storeSpans (s : State) : List (Nat × Nat) :=
  s.cfg.descList.map fun e => (e.addr.toNat, s.entryLength e)

/-- A span shares no byte with the descriptor store. -/
def State.storeApart (s : State) (a : Word) (n : Nat) : Bool := s.storeSpans.all (spansApart (a.toNat, n))

/-- The link stores `n` bytes at `a` and goes on with `k`: the descriptor store is "read-only for the block and for
the link" (20_memory.md R70, R86; log 24). -/
def State.withReceive (s : State) (a : Word) (n : Nat) (k : Out) : Out :=
  if s.storeApart a n then withSpan s.cfg a n k else .refused .storeReadOnly

/-- A span fits the buffer it is in: it is inside the space and meets no region, or lies inside one buffer or one
entry of the descriptor store (20_memory.md R83: "a length that runs past the caller's buffer is the caller's
error"). -/
def State.fitsBuffer (s : State) (a : Word) (n : Nat) : Bool :=
  a.toNat + n ≤ 2 ^ 32 &&
    ((s.cfg.blockRegions ++ s.storeSpans).all (spansApart (a.toNat, n)) ||
      (s.cfg.bufferSpans ++ s.storeSpans).any (spanInside (a.toNat, n)))

/-! ## Slots, endpoints, packets -/

/-- `BDT[s]`. -/
def State.slot (s : State) (i : SlotIx) : Slot := s.bdt.get i

/-- `BDT[s] <- (d, a)`. -/
def State.setSlot (s : State) (i : SlotIx) (v : Slot) : State := { s with bdt := s.bdt.set i v }

/-- `BDT[s].desc <- d`, `addr` unchanged. -/
def State.setDesc (s : State) (i : SlotIx) (d : Word) : State :=
  s.setSlot i ⟨d, (s.slot i).addr⟩

/-- `BDT.WRITE` as the primitive the rules use: `addr`, then `desc` = `DESC(n, t)` (40_bdt_link.md R140). -/
def State.arm (s : State) (ep : Ep) (d : Dir) (b : Bank) (n : BitVec 10) (t : Toggle) (a : Word) : State :=
  s.setSlot (slotOf ep d b) ⟨armedWord n t, a⟩

/-- The table's byte at address `a`, slot `s` at `BDT_BASE + 8·s`, `desc` before `addr`, low byte first, as an
external observer sees it (20_memory.md R71 (c), R75; log 24). -/
def State.tableByte (s : State) (a : Nat) : Byte :=
  let k := s.slot (BitVec.ofNat 6 ((a - s.cfg.slotAddr 0) / 8))
  (toBytes32 k.desc ++ toBytes32 k.addr).getD ((a - s.cfg.slotAddr 0) % 8) 0

/-- The record of endpoint `ep`. -/
def State.endpoint (s : State) (ep : Ep) : Endpoint := s.eps.get ep

/-- Replace the record of endpoint `ep`. -/
def State.setEndpoint (s : State) (ep : Ep) (v : Endpoint) : State := { s with eps := s.eps.set ep v }

/-- Replace cell `i` of a list of headers, lengthening the list where it is too short. -/
def putPkt : List Pkt → Nat → Pkt → List Pkt
  | [], 0, v => [v]
  | [], i + 1, v => ⟨0, 0, 0⟩ :: putPkt [] i v
  | _ :: ps, 0, v => v :: ps
  | p :: ps, i + 1, v => p :: putPkt ps i v

/-- The header of packet `i`. -/
def State.pkt (s : State) (i : Nat) : Pkt := s.pool.pkts.getD i ⟨0, 0, 0⟩

/-- Replace the header of packet `i`. -/
def State.setPkt (s : State) (i : Nat) (v : Pkt) : State :=
  { s with pool := { s.pool with pkts := putPkt s.pool.pkts i v } }

/-- `buf_addr(i)` (10_state.md R40). -/
def State.bufAddr (s : State) (i : Nat) : Word := s.cfg.bufAddrs.getD i 0

/-- `pkt_of_addr(a)`: the packet whose buffer starts at `a`, or none (10_state.md R40). -/
def State.pktOfAddr (s : State) (a : Word) : Option Nat :=
  (s.cfg.bufAddrs.take s.cfg.numBuffers).findIdx? (· = a)

/-- The element after `i` in a list. -/
def succIn (i : Nat) : List Nat → Option Nat
  | a :: b :: l => if a = i then some b else succIn i (b :: l)
  | _ => none

/-- All the lists packets are linked in: the queues and, under Segregated, the free lists. -/
def State.chains (s : State) : List (List Nat) :=
  s.cfg.endpoints.flatMap fun e =>
    [(s.endpoint e).rxq, (s.endpoint e).txq, s.pool.freeList.get e]

/-- `pkt[i].next` (10_state.md R40): the packet after `i` in the queue or free list that holds it (log 12). -/
def State.pktNext (s : State) (i : Nat) : Option Nat := s.chains.findSome? (succIn i)

/-! ## Ownership of packets (10_state.md R41) -/

/-- Packet `i` is in the free pool (41_allocator.md R171, R173). -/
def State.pktFree (s : State) (i : Nat) : Bool :=
  match s.cfg.allocStrategy with
  | .sharedBitmap => i < 32 && s.pool.freeMap.getMsbD i
  | .segregated => s.cfg.endpoints.any fun e => (s.pool.freeList.get e).contains i

/-- Packet `i` is an element of some `rxq` or `txq`. -/
def State.pktQueued (s : State) (i : Nat) : Bool :=
  s.cfg.endpoints.any fun e => (s.endpoint e).rxq.contains i || (s.endpoint e).txq.contains i

/-- The block still holds slot `k`: the link owns it, or its completion waits in `stat_fifo` (10_state.md R41,
60_exceptions.md R345: "a slot the block manages"; log 29). -/
def State.slotBusy (s : State) (k : SlotIx) : Bool :=
  descOwn (s.slot k).desc || s.regs.statFifo.any (fun st => statSlot st = k)

/-- The slots of the non-control endpoints, `4 .. 4·(N_EP+1)−1`. -/
def Config.dataSlots (c : Config) : List SlotIx :=
  c.endpoints.flatMap fun e => [slotOf e .rx .even, slotOf e .rx .odd, slotOf e .tx .even, slotOf e .tx .odd]

/-- Packet `i` is the buffer of an Armed slot of a non-control endpoint. -/
def State.pktArmed (s : State) (i : Nat) : Bool :=
  (Config.dataSlots s.cfg).any fun k => descOwn (s.slot k).desc && s.pktOfAddr (s.slot k).addr = some i

/-- The completion of slot `k` waits in `stat_fifo` and packet `i` is its buffer. -/
def State.completesAt (s : State) (i : Nat) (k : SlotIx) : Bool :=
  s.regs.statFifo.any (fun st => statSlot st = k) && s.pktOfAddr (s.slot k).addr = some i

/-- Packet `i` is the buffer of a slot of a non-control endpoint whose completion waits in `stat_fifo`. -/
def State.pktCompleting (s : State) (i : Nat) : Bool := (Config.dataSlots s.cfg).any (s.completesAt i)

/-- The same of a slot other than `k`. -/
def State.pktCompletingElse (s : State) (k : SlotIx) (i : Nat) : Bool :=
  (Config.dataSlots s.cfg).any fun j => j != k && s.completesAt i j

/-- Packet `i` exists and is in no queue, in no Armed slot and not free (41_allocator.md R176). -/
def State.pktLoose (s : State) (i : Nat) : Bool :=
  i < s.cfg.numBuffers && !s.pktFree i && !s.pktQueued i && !s.pktArmed i

/-- Packet `i` is "with a caller" (10_state.md R41). -/
def State.pktHeld (s : State) (i : Nat) : Bool := s.pktLoose i && !s.pktCompleting i

/-! ## Buffers the link has still to read (20_memory.md R84, R86, 70_reset_and_hazards.md R386 (f), R393) -/

/-- The slots of endpoint 0 in the transmit direction. -/
def ep0TxSlots : List SlotIx := [slotOf 0 .tx .even, slotOf 0 .tx .odd]

/-- A reply of endpoint 0 is under way: a packet is armed, or a remainder waits for the completion of one. -/
def State.replyInFlight (s : State) : Bool :=
  ep0TxSlots.any (fun k => descOwn (s.slot k).desc) || (s.ep0.txPtr.isSome && ep0TxSlots.any s.slotBusy)

/-- The first entry of `DESC_LIST` that matches the captured `wValue` and `wIndex` (44_control_transfer.md R249). -/
def State.findDescriptor (s : State) : Option DescEntry :=
  s.cfg.descList.find? fun e => e.wValue = s.ep0.setup.wValue && e.wIndex = s.ep0.setup.wIndex

/-- The entry of the descriptor store that the captured request asked for. -/
def State.requestedEntry (s : State) : Option DescEntry :=
  if s.cfg.isGetDescriptor s.ep0.setup.bRequest s.ep0.setup.bmRequestType then s.findDescriptor else none

/-- The transmit slots of the table. -/
def Config.txSlots (c : Config) : List SlotIx :=
  ep0TxSlots ++ c.endpoints.flatMap fun e => [slotOf e .tx .even, slotOf e .tx .odd]

/-- The bytes the link has still to read: the buffers of the Armed transmit slots, and while a reply of endpoint 0 is
under way its remainder and the whole descriptor it is taken from. -/
def State.pendingSpans (s : State) : List (Nat × Nat) :=
  ((Config.txSlots s.cfg).filter fun k => descOwn (s.slot k).desc).map
      (fun k => ((s.slot k).addr.toNat, (descCount (s.slot k).desc).toNat))
    ++ if s.replyInFlight then
        s.ep0.txPtr.toList.map (fun p => (p.toNat, s.ep0.txLen))
          ++ s.requestedEntry.toList.map (fun e => (e.addr.toNat, s.entryLength e))
      else []

/-- A span meets none of these bytes. -/
def State.notPending (s : State) (a : Word) (n : Nat) : Bool := s.pendingSpans.all (spansApart (a.toNat, n))

/-! ## Outputs and results -/

/-- `emit E` (00_scope.md R7). -/
def State.emit (s : State) (e : Event) : State := { s with env := { s.env with out := s.env.out ++ [e] } }

/-- The result an operation returns (30_encoding.md R117). -/
def State.setResult (s : State) (r : Result) : State := { s with env := { s.env with result := r } }

/-! ## Taking the interrupt and returning from it (60_exceptions.md R346, R349, R350) -/

/-- Entry: "Taking the interrupt saves nothing and changes nothing in the block but `in_isr <- true`"; the
dispatcher stands at the top of its loop. -/
def State.enterIsr (s : State) : State :=
  { s with ctx := { s.ctx with inIsr := true, isrPoint := .top, isrStatus := 0 } }

/-- Return: `in_isr <- false`; nothing is restored. -/
def State.leaveIsr (s : State) : State :=
  { s with ctx := { s.ctx with inIsr := false, isrPoint := .top, isrStatus := 0 } }

/-- The dispatcher goes on at `p` with the pass's `status`. -/
def State.isrAt (s : State) (p : IsrPoint) (status : Byte) : State :=
  { s with ctx := { s.ctx with isrPoint := p, isrStatus := status } }

end Sys2Proof.Machine
end

