-- ==== Sys2Proof/Machine/Flags.lean ====
section
/-! DEFINITION. The register block as the agents read and write it: named bits, write-one-to-clear registers,
the control register's side effects, the interrupt line, and the bank pointers (spec/10_state.md R24 to R34,
30_encoding.md R106 to R112, 20_memory.md R74). -/

namespace Sys2Proof.Machine

/-! ## `ENDPT[e]` (10_state.md R24, 30_encoding.md R107) -/

def epcHshk (v : Byte) : Bool := v.getLsbD 0
def epcStall (v : Byte) : Bool := v.getLsbD 1
def epcTxen (v : Byte) : Bool := v.getLsbD 2
def epcRxen (v : Byte) : Bool := v.getLsbD 3
def epcCtldis (v : Byte) : Bool := v.getLsbD 4

/-- `ENDPT[e]`. -/
def State.endptReg (s : State) (e : Ep) : Byte := s.regs.endpt.get e

/-- `ENDPT[e] <- v`: five named bits, the reserved bits 7:5 stay 0 (R107; log 25). -/
def State.setEndptReg (s : State) (e : Ep) (v : Byte) : State :=
  { s with regs := { s.regs with endpt := s.regs.endpt.set e (v &&& 0x1F) } }

/-! ## `STAT`, `ISTAT`, `INTEN` (10_state.md R27, R28, R32) -/

/-- `ISTAT` as read: the stored flags, and `tokdne` = 1 exactly when `stat_fifo` is not empty (R32). -/
def State.istatReg (s : State) : Byte :=
  if s.regs.statFifo.isEmpty then s.regs.istat &&& 0xF7 else s.regs.istat ||| 0x08

/-- A write to `ISTAT`: clears exactly the bits written 1; clearing `tokdne` removes the oldest entry of
`stat_fifo` (R28, R32). -/
def State.clearIstat (s : State) (v : Byte) : State :=
  { s with regs := { s.regs with
      istat := s.regs.istat &&& ~~~v
      statFifo := if v.getLsbD 3 then s.regs.statFifo.tail else s.regs.statFifo } }

/-- The link sets flags of `ISTAT` other than `tokdne`. -/
def State.raiseIstat (s : State) (v : Byte) : State :=
  { s with regs := { s.regs with istat := s.regs.istat ||| v } }

/-- The link pushes a status byte, which raises `tokdne` (40_bdt_link.md R149). -/
def State.pushStat (s : State) (st : Byte) : State :=
  { s with regs := { s.regs with statFifo := s.regs.statFifo ++ [st] } }

/-- `STAT`: the oldest entry of `stat_fifo`; while it is empty a free value (R32, 93 U1; log 14). -/
def State.statReg (s : State) : Byte :=
  match s.regs.statFifo with
  | st :: _ => st
  | [] => Config.emptyStat s.env.freeCount

/-- Reading `STAT` while it is unspecified uses up one free value. -/
def State.usedStat (s : State) : State :=
  if s.regs.statFifo.isEmpty then { s with env := { s.env with freeCount := s.env.freeCount + 1 } } else s

/-- The interrupt line: asserted exactly when `(ISTAT & INTEN) != 0` (60_exceptions.md R346). -/
def State.lineAsserted (s : State) : Bool := (s.istatReg &&& s.regs.intEn) != 0

/-- The ISR agent may start: line asserted, `irq_mask` false, `in_isr` false (R346). -/
def State.mayStartIsr (s : State) : Bool := s.lineAsserted && !s.ctx.irqMask && !s.ctx.inIsr

/-! ## `ERRSTAT`, `ERREN`, `OTGISTAT` (10_state.md R29, R30) -/

/-- A write to `ERRSTAT` clears the bits written 1. -/
def State.clearErrStat (s : State) (v : Byte) : State :=
  { s with regs := { s.regs with errStat := s.regs.errStat &&& ~~~v } }

/-- A write to `OTGISTAT` clears the bits written 1 (92 D21). -/
def State.clearOtgIstat (s : State) (v : Byte) : State :=
  { s with regs := { s.regs with otgIstat := s.regs.otgIstat &&& ~~~v } }

/-! ## `CTL` (10_state.md R31, R34, 30_encoding.md R109) -/

/-- `CTL` as read: `enable` bit 0, `oddrst` bit 1, `suspend` bit 5. -/
def State.ctlReg (s : State) : Byte :=
  (if s.regs.ctlEnable then 0x01 else 0) ||| (if s.regs.ctlOddrst then 0x02 else 0)
    ||| (if s.regs.suspended then 0x20 else 0)

/-- A write to `CTL`: `enable` and `oddrst` take their bits; `oddrst` = 1 sets every `hw_bank` to EVEN;
`suspended` is cleared by writing the register with bit 5 zero (R109). -/
def State.writeCtl (s : State) (v : Byte) : State :=
  { s with
    regs := { s.regs with
      ctlEnable := v.getLsbD 0
      ctlOddrst := v.getLsbD 1
      suspended := s.regs.suspended && v.getLsbD 5 }
    hwBank := if v.getLsbD 1 then Tab.fill .even else s.hwBank }

/-! ## `ADDR`, `BDTPAGE` as bytes (30_encoding.md R110, R112) -/

/-- `ADDR` as read: bits 6:0, bit 7 zero. -/
def State.addrReg (s : State) : Byte := s.regs.addr.setWidth 8

/-- The three page registers: `BDT_BASE[15:8]` (bit 0 ignored), `[23:16]`, `[31:24]`. -/
def State.bdtPage1 (s : State) : Byte := s.regs.bdtPage.extractLsb' 8 8 &&& 0xFE
def State.bdtPage2 (s : State) : Byte := s.regs.bdtPage.extractLsb' 16 8
def State.bdtPage3 (s : State) : Byte := s.regs.bdtPage.extractLsb' 24 8

/-! ## The link's bank pointers (10_state.md R33) -/

/-- `hw_bank[e][d]`. -/
def State.bankOf (s : State) (e : Ep) (d : Dir) : Bank := s.hwBank.get (epDir e d)

/-- `hw_bank[e][d] <- b`. -/
def State.setBank (s : State) (e : Ep) (d : Dir) (b : Bank) : State :=
  { s with hwBank := s.hwBank.set (epDir e d) b }

end Sys2Proof.Machine
end

