-- ==== Sys2Proof/Machine/Operands.lean ====
section
/-! DEFINITION. Operand assembly (spec/30_encoding.md R113, R114, R120): the SETUP packet's fields, what the
requests take from them, endpoint operands and packet operands. -/

namespace Sys2Proof.Machine

/-- `decode_setup`: the five fields of the 8 bytes, low byte first (R113, 20_memory.md R71). -/
def decodeSetup (bs : List Byte) : Setup where
  bmRequestType := bs.getD 0 0
  bRequest := bs.getD 1 0
  wValue := ofBytes16 (bs.getD 2 0) (bs.getD 3 0)
  wIndex := ofBytes16 (bs.getD 4 0) (bs.getD 5 0)
  wLength := ofBytes16 (bs.getD 6 0) (bs.getD 7 0)

/-- The request row the captured `setup` selects (R114). -/
def State.request (s : State) : Request :=
  classifyRequest s.cfg s.ep0.setup.bRequest s.ep0.setup.bmRequestType

/-- The configuration value, `wValue[7:0]` (R120). -/
def Setup.configValue (p : Setup) : Byte := p.wValue.extractLsb' 0 8

/-- The device address, `wValue[6:0]` (R120). -/
def Setup.deviceAddress (p : Setup) : BitVec 7 := p.wValue.extractLsb' 0 7

/-- The descriptor type, `wValue[15:8]` (R120). -/
def Setup.descType (p : Setup) : Byte := p.wValue.extractLsb' 8 8

/-- `wIndex & STATUS_INDEX_MASK` (44_control_transfer.md R251). -/
def State.statusIndex (s : State) : Nat := (s.ep0.setup.wIndex &&& s.cfg.statusIndexMask).toNat

/-- `wIndex & FEATURE_INDEX_MASK` (44_control_transfer.md R252). -/
def State.featureIndex (s : State) : Nat := (s.ep0.setup.wIndex &&& s.cfg.featureIndexMask).toNat

/-- A byte operand as an endpoint number. -/
def epOf (b : Byte) : Ep := b.setWidth 4

/-- An operand in `1..N_EP` (42_queues.md R201). -/
def State.validEp (s : State) (b : Byte) : Bool := s.cfg.isEndpoint b.toNat

/-- `EP0_SIZE` and `PKT_CAP` as byte counts. -/
def Config.ep0Count (c : Config) : BitVec 10 := BitVec.ofNat 10 c.ep0Size
def Config.pktCount (c : Config) : BitVec 10 := BitVec.ofNat 10 c.pktCap

/-- `EP0_RX_ADDR[b]` (10_state.md R51). -/
def Config.ep0RxAddr (c : Config) : Bank → Word
  | .even => c.ep0RxAddrEven
  | .odd => c.ep0RxAddrOdd

/-- The slot's token kind (30_encoding.md R103). -/
def State.tokOf (s : State) (i : SlotIx) : BitVec 4 := descTok (s.slot i).desc

/-- The byte count of a slot, `desc[25:16]` (R120). -/
def State.countOf (s : State) (i : SlotIx) : BitVec 10 := descCount (s.slot i).desc

end Sys2Proof.Machine
end

