-- ==== Sys2Proof/Machine/Alloc.lean ====
section
/-! DEFINITION. The packet memory allocator (spec/41_allocator.md): ALLOC under both strategies, pool_return,
RELEASE, starved_target and REDIRECT. -/

namespace Sys2Proof.Machine

/-! ## Allocation (R172, R174) -/

/-- The bit of `free_map` that stands for packet `i`: bit 31-i (R171). -/
def mapBit (i : Nat) : Word := 0x80000000#32 >>> i

/-- The lowest-numbered free packet: `clz32(free_map)` if it is below `NUM_BUFFERS` (R172). -/
def firstFree (m : Word) (n : Nat) : Option Nat := (List.range n).find? fun i => m.getMsbD i

/-- `p.len <- 0; p.index <- 0` of a packet just allocated; its owner tag stays. -/
def State.freshHeader (s : State) (i : Nat) : State := s.setPkt i ⟨0, 0, (s.pkt i).owner⟩

/-- Take packet `i` out of the shared pool. -/
def State.takeShared (s : State) (i : Nat) : State :=
  State.freshHeader { s with pool := { s.pool with freeMap := s.pool.freeMap &&& ~~~(mapBit i) } } i

/-- ALLOC under SharedBitmap: the hint is ignored (R172). -/
def State.allocShared (s : State) : Option Nat × State :=
  match firstFree s.pool.freeMap s.cfg.numBuffers with
  | none => (none, s)
  | some i => (some i, s.takeShared i)

/-- `free_list[ep] <- l`. -/
def State.setFreeList (s : State) (ep : Ep) (l : List Nat) : State :=
  { s with pool := { s.pool with freeList := s.pool.freeList.set ep l } }

/-- ALLOC under Segregated for an endpoint number (R174): pop the endpoint's free list. -/
def State.allocSegregated (s : State) (ep : Byte) : Option Nat × State :=
  if s.validEp ep then
    match s.pool.freeList.get (epOf ep) with
    | [] => (none, s)
    | i :: rest => (some i, (s.setFreeList (epOf ep) rest).freshHeader i)
  else (none, s)

/-- `ALLOC(hint)` of the build's strategy (R170). -/
def State.allocate (s : State) (hint : Byte) : Option Nat × State :=
  match s.cfg.allocStrategy with
  | .sharedBitmap => s.allocShared
  | .segregated => s.allocSegregated hint

/-! ## Return, redirection, release (R175 to R178) -/

/-- The endpoint a packet's owner tag names. -/
def State.ownerEp (s : State) (i : Nat) : Ep := BitVec.ofNat 4 (s.pkt i).owner

/-- Put packet `i` into the free structure (R175). -/
def State.poolPut (s : State) (i : Nat) : State :=
  match s.cfg.allocStrategy with
  | .sharedBitmap => { s with pool := { s.pool with freeMap := s.pool.freeMap ||| mapBit i } }
  | .segregated => s.setFreeList (s.ownerEp i) (i :: s.pool.freeList.get (s.ownerEp i))

/-- `pool_return(p)` (R175): "`p` is a pool packet that is not free", else refuse. -/
def State.poolReturn (s : State) (i : Nat) : Out :=
  if s.cfg.numBuffers ≤ i then .refused .packetNotHeld
  else if s.pktFree i then .refused .packetFree
  else .next (s.poolPut i)

/-- `starved_target(p)` (R177). -/
def State.starvedTarget (s : State) (i : Nat) : Option Ep :=
  match s.cfg.allocStrategy with
  | .segregated =>
      if s.cfg.endpoints.contains (s.ownerEp i) && (s.endpoint (s.ownerEp i)).starved then some (s.ownerEp i)
      else none
  | .sharedBitmap => s.cfg.endpoints.find? fun e => (s.endpoint e).starved

/-- `starved[ep] <- v`. -/
def State.setStarved (s : State) (ep : Ep) (v : Bool) : State :=
  s.setEndpoint ep { s.endpoint ep with starved := v }

/-- Arm a receive slot of a non-control endpoint with packet `i`: count `PKT_CAP`, toggle = bank (R178,
45_dispatcher.md R308). -/
def State.armRx (s : State) (ep : Ep) (b : Bank) (i : Nat) : State :=
  s.arm ep .rx b (Config.pktCount s.cfg) b.toggle (s.bufAddr i)

/-- A receive slot is Unarmed (30_encoding.md R104). -/
def State.rxUnarmed (s : State) (ep : Ep) (b : Bank) : Bool := (s.slot (slotOf ep .rx b)).desc = unarmedWord

/-- The redirection's arm: the slot, then the flag by `STARVED_CLEAR` (R178). -/
def State.redirectTo (s : State) (ep : Ep) (b : Bank) (i : Nat) : State :=
  match s.cfg.starvedClear with
  | .onRedirect => (s.armRx ep b i).setStarved ep false
  | .whenNoUnarmedSlot => (s.armRx ep b i).setStarved ep (s.rxUnarmed ep b.flip)

/-- `REDIRECT(e, p)` (R178): the first Unarmed receive slot, EVEN before ODD, else the pool. -/
def State.redirect (s : State) (ep : Ep) (i : Nat) : Out :=
  if s.rxUnarmed ep .even then .next (s.redirectTo ep .even i)
  else if s.rxUnarmed ep .odd then .next (s.redirectTo ep .odd i)
  else (s.setStarved ep false).poolReturn i

/-- The two branches of `RELEASE(p)` after its checks (R176). -/
def State.releaseTo (s : State) (i : Nat) : Out :=
  match s.starvedTarget i with
  | some e => if s.ep0.configuration != 0 then s.redirect e i else s.poolReturn i
  | none => s.poolReturn i

/-- `RELEASE(p)` (R176): none is ignored; a packet that is free, queued or in an Armed slot is refused. -/
def State.release (s : State) (p : Option Nat) : Out :=
  match p with
  | none => .next s
  | some i =>
    if s.pktFree i then .refused .packetFree
    else if !s.pktLoose i then .refused .packetBusy
    else s.releaseTo i

/-! ## The instructions -/

/-- ALLOC (R172): the SharedBitmap strategy's allocation. -/
def execAlloc (_ep : Byte) (s : State) : Out :=
  .next (s.allocShared.2.setResult (.packet s.allocShared.1))

/-- ALLOC.SEG (R174): the Segregated strategy's allocation. -/
def execAllocSeg (ep : Byte) (s : State) : Out :=
  .next ((s.allocSegregated ep).2.setResult (.packet (s.allocSegregated ep).1))

/-- RELEASE as a command: a number that names no packet is `none` (log 38); the caller must hold the packet
(R176, 10_state.md R41). -/
def execRelease (pkt : BitVec 16) (s : State) : Out :=
  if s.cfg.numBuffers ≤ pkt.toNat then .next s
  else if s.pktFree pkt.toNat then .refused .packetFree
  else if !s.pktHeld pkt.toNat then .refused .packetNotHeld
  else s.release (some pkt.toNat)

/-- pool_return (R175). -/
def execPoolReturn (pkt : BitVec 16) (s : State) : Out := s.poolReturn pkt.toNat

/-- starved_target (R177): a function; its value is the result (log 27). -/
def execStarvedTarget (pkt : BitVec 16) (s : State) : Out :=
  .next (s.setResult (.endpoint (s.starvedTarget pkt.toNat)))

/-- REDIRECT (R178), by a caller who owns the packet (R176); an endpoint out of range is ignored (log 37). -/
def execRedirect (ep : Ep) (pkt : BitVec 16) (s : State) : Out :=
  if !s.cfg.isEndpoint ep.toNat then .next s
  else if s.pktFree pkt.toNat then .refused .packetFree
  else if !s.pktLoose pkt.toNat then .refused .packetBusy
  else s.redirect ep pkt.toNat

end Sys2Proof.Machine
end

