-- ==== Sys2Proof/Machine/Queues.lean ====
section
/-! DEFINITION. The per-endpoint receive and transmit queues (spec/42_queues.md). A queue is a list, head
first; a packet's `next` is read off it (log 12). -/

namespace Sys2Proof.Machine

/-- Append to the tail and update the cached byte count (R191). -/
def State.rxAppend (s : State) (ep : Ep) (i : Nat) : State :=
  s.setEndpoint ep { s.endpoint ep with
    rxq := (s.endpoint ep).rxq ++ [i]
    rxBytes := (s.endpoint ep).rxBytes + (s.pkt i).len }

/-- `RXQ.ENQUEUE(ep, p)` (R191): "`p` is in no queue, `p.len` > 0", else refuse; that a free packet is
refused too is DEDUCED from 10_state.md R41, a packet being in exactly one place (log 16). -/
def State.rxEnqueue (s : State) (ep : Ep) (i : Nat) : Out :=
  if s.pktQueued i then .refused .packetBusy
  else if s.pktFree i then .refused .packetFree
  else if (s.pkt i).len = 0 then .refused .emptyPacket
  else .next (s.rxAppend ep i)

/-- `RX.DEQUEUE(ep)` (R192, R201): pop the head, decrement the byte count by its whole length. -/
def State.rxPop (s : State) (ep : Byte) : Option Nat × State :=
  if s.validEp ep then
    match (s.endpoint (epOf ep)).rxq with
    | [] => (none, s)
    | i :: rest =>
        (some i, s.setEndpoint (epOf ep) { s.endpoint (epOf ep) with
          rxq := rest
          rxBytes := (s.endpoint (epOf ep)).rxBytes - (s.pkt i).len })
  else (none, s)

/-- `RX.BYTES(ep)` (R193, R201). -/
def State.queuedBytes (s : State) (ep : Byte) : Nat :=
  if s.validEp ep then (s.endpoint (epOf ep)).rxBytes else 0

/-- `TX.PKTS(ep)` (R194, R201): the length of the transmit queue. -/
def State.queuedTx (s : State) (ep : Byte) : Nat :=
  if s.validEp ep then (s.endpoint (epOf ep)).txq.length else 0

/-- `RX.PKTS(ep)` (R195, R201): the length of the receive queue. -/
def State.queuedRx (s : State) (ep : Byte) : Nat :=
  if s.validEp ep then (s.endpoint (epOf ep)).rxq.length else 0

/-- `TXQ.APPEND(ep, p)` (R196). -/
def State.txAppend (s : State) (ep : Ep) (i : Nat) : State :=
  s.setEndpoint ep { s.endpoint ep with txq := (s.endpoint ep).txq ++ [i] }

/-- `TXQ.POP(ep)` (R197). -/
def State.txPop (s : State) (ep : Ep) : Option Nat × State :=
  match (s.endpoint ep).txq with
  | [] => (none, s)
  | i :: rest => (some i, s.setEndpoint ep { s.endpoint ep with txq := rest })

/-! ## The instructions -/

/-- RXQ.ENQUEUE (R191); an endpoint out of range is ignored (R201). -/
def execRxqEnqueue (ep : Ep) (pkt : BitVec 16) (s : State) : Out :=
  if s.cfg.isEndpoint ep.toNat then s.rxEnqueue ep pkt.toNat else .next s

/-- TXQ.APPEND (R196); an endpoint out of range is ignored; a packet already queued is refused (R190). -/
def execTxqAppend (ep : Ep) (pkt : BitVec 16) (s : State) : Out :=
  if !s.cfg.isEndpoint ep.toNat then .next s
  else if s.pktQueued pkt.toNat then .refused .packetBusy
  else .next (s.txAppend ep pkt.toNat)

/-- TXQ.POP (R197); an endpoint out of range answers none (R201). -/
def execTxqPop (ep : Ep) (s : State) : Out :=
  if s.cfg.isEndpoint ep.toNat then .next ((s.txPop ep).2.setResult (.packet (s.txPop ep).1))
  else .next (s.setResult (.packet none))

/-- RX.DEQUEUE (R192). -/
def execRxDequeue (ep : Byte) (s : State) : Out :=
  .next ((s.rxPop ep).2.setResult (.packet (s.rxPop ep).1))

/-- RX.BYTES (R193). -/
def execRxBytes (ep : Byte) (s : State) : Out := .next (s.setResult (.count (s.queuedBytes ep)))

/-- TX.PKTS (R194). -/
def execTxPkts (ep : Byte) (s : State) : Out := .next (s.setResult (.count (s.queuedTx ep)))

/-- RX.PKTS (R195). -/
def execRxPkts (ep : Byte) (s : State) : Out := .next (s.setResult (.count (s.queuedRx ep)))

end Sys2Proof.Machine
end

