-- ==== Sys2Proof/Machine/Banks.lean ====
section
/-! DEFINITION. The double-buffer transmit bank allocator (spec/43_bank_allocator.md): TX.SUBMIT, the
completion tables, isochronous transmit and the teardown map. -/

namespace Sys2Proof.Machine

/-- The bank a submit uses and the state it enters; none where both banks are the link's (R211). -/
def submitBank : TxState → Option (Bank × TxState)
  | .bothFreeEvenFirst => some (.even, .oddFree)
  | .bothFreeOddFirst => some (.odd, .evenFree)
  | .evenFree => some (.even, .noneFreeOddFirst)
  | .oddFree => some (.odd, .noneFreeEvenFirst)
  | .noneFreeEvenFirst => none
  | .noneFreeOddFirst => none

/-- Table A (R214): completion of a bank with a packet popped from the queue. -/
def tableA : TxState → Bank → TxState
  | .noneFreeEvenFirst, .even => .noneFreeOddFirst
  | .noneFreeEvenFirst, .odd => .noneFreeEvenFirst
  | .noneFreeOddFirst, .even => .noneFreeOddFirst
  | .noneFreeOddFirst, .odd => .noneFreeEvenFirst
  | .evenFree, _ => .noneFreeOddFirst
  | .oddFree, _ => .noneFreeEvenFirst
  | .bothFreeEvenFirst, _ => .oddFree
  | .bothFreeOddFirst, _ => .evenFree

/-- Table B (R215): completion of a bank with the queue empty. -/
def tableB : TxState → Bank → TxState
  | .noneFreeEvenFirst, .even => .evenFree
  | .noneFreeEvenFirst, .odd => .oddFree
  | .noneFreeOddFirst, .even => .evenFree
  | .noneFreeOddFirst, .odd => .oddFree
  | .evenFree, _ => .bothFreeEvenFirst
  | .oddFree, _ => .bothFreeOddFirst
  | .bothFreeEvenFirst, _ => .bothFreeEvenFirst
  | .bothFreeOddFirst, _ => .bothFreeOddFirst

/-- `TEARDOWN_BANK_MAP` (R221). -/
def teardownBank : TeardownMap → TxState → TxState
  | _, .bothFreeEvenFirst => .bothFreeEvenFirst
  | _, .bothFreeOddFirst => .bothFreeOddFirst
  | .upstream, .evenFree => .bothFreeEvenFirst
  | .upstream, .oddFree => .bothFreeOddFirst
  | .pointerConsistent, .evenFree => .bothFreeOddFirst
  | .pointerConsistent, .oddFree => .bothFreeEvenFirst
  | _, .noneFreeEvenFirst => .bothFreeEvenFirst
  | _, .noneFreeOddFirst => .bothFreeOddFirst

/-- `tx_state[ep] <- v`. -/
def State.setTxState (s : State) (ep : Ep) (v : TxState) : State :=
  s.setEndpoint ep { s.endpoint ep with txState := v }

/-- Arm a transmit slot of a non-control endpoint with packet `i`: its length, toggle = bank (R212). -/
def State.armTx (s : State) (ep : Ep) (b : Bank) (i : Nat) : State :=
  s.arm ep .tx b (BitVec.ofNat 10 (s.pkt i).len) b.toggle (s.bufAddr i)

/-- The effect of `TX.SUBMIT(ep, p)` (R211). -/
def State.submit (s : State) (ep : Ep) (i : Nat) : State :=
  match submitBank (s.endpoint ep).txState with
  | some (b, nxt) => (s.setTxState ep nxt).armTx ep b i
  | none => s.txAppend ep i

/-- `TX.COMPLETE(ep, b)` (R213). -/
def State.completeTx (s : State) (ep : Ep) (b : Bank) : State :=
  match s.txPop ep with
  | (some i, s') => (s'.setTxState ep (tableA (s.endpoint ep).txState b)).armTx ep b i
  | (none, s') => s'.setTxState ep (tableB (s.endpoint ep).txState b)

/-- Note the transmit operation an endpoint is driven with (R220; log 17). -/
def State.setDiscipline (s : State) (ep : Ep) (d : Discipline) : State :=
  s.setEndpoint ep { s.endpoint ep with discipline := d }

/-- The effect of `ISO.SUBMIT(ep, a, n)` (R218). -/
def State.submitIso (s : State) (ep : Ep) (a : Word) (n : BitVec 10) : State :=
  (s.arm ep .tx (s.endpoint ep).isoBank n (s.endpoint ep).isoBank.toggle a).setEndpoint ep
    { s.endpoint ep with isoBank := (s.endpoint ep).isoBank.flip }

/-- The byte at `a` and the `n` bytes from it on are the application's: in no table, packet, endpoint-0 buffer or
descriptor (R220, 20_memory.md R70). A buffer of 0 bytes has a place too: at the start of a packet its completion
would free that packet (log 35). -/
def State.appBuffer (s : State) (a : Word) (n : Nat) : Bool :=
  (s.cfg.blockRegions ++ s.storeSpans).all (spansApart (a.toNat, max n 1))

/-! ## The instructions -/

/-- TX.SUBMIT (R211, R220). -/
def execTxSubmit (ep : Byte) (pkt : BitVec 16) (s : State) : Out :=
  if !s.validEp ep then .next s
  else if (s.endpoint (epOf ep)).discipline = .iso then .refused .mixedDiscipline
  else if !s.pktHeld pkt.toNat then .refused .packetNotHeld
  else if s.cfg.pktCap < (s.pkt pkt.toNat).len then .refused .packetTooLong
  else .next ((s.setDiscipline (epOf ep) .packet).submit (epOf ep) pkt.toNat)

/-- ISO.SUBMIT (R218, R220). -/
def execIsoSubmit (ep : Byte) (addr : Word) (n : BitVec 10) (s : State) : Out :=
  if !s.validEp ep then .next s
  else if (s.endpoint (epOf ep)).discipline = .packet then .refused .mixedDiscipline
  else if 2 ^ 32 < addr.toNat + n.toNat then .refused .pastBuffer
  else if !s.appBuffer addr n.toNat then .refused .notApplicationBuffer
  else .next ((s.setDiscipline (epOf ep) .iso).submitIso (epOf ep) addr n)

/-- TX.COMPLETE (R213); an endpoint out of range is ignored (log 37). -/
def execTxComplete (ep : Ep) (bank : Bank) (s : State) : Out :=
  if s.cfg.isEndpoint ep.toNat then .next (s.completeTx ep bank) else .next s

/-- TX.COMPLETE, Table A (R214): a function; its value is the result (log 27). -/
def execTxCompleteTableA (st : TxState) (bank : Bank) (s : State) : Out :=
  .next (s.setResult (.bankState (tableA st bank)))

/-- TX.COMPLETE, Table B (R215). -/
def execTxCompleteTableB (st : TxState) (bank : Bank) (s : State) : Out :=
  .next (s.setResult (.bankState (tableB st bank)))

/-- TEARDOWN_BANK_MAP (R221), of the build's parameter. -/
def execTeardownBankMap (st : TxState) (s : State) : Out :=
  .next (s.setResult (.bankState (teardownBank s.cfg.teardownMap st)))

end Sys2Proof.Machine
end

