-- ==== Sys2Proof/Machine/Link.lean ====
section
/-! DEFINITION. The link agent's steps (spec/40_bdt_link.md R144 to R155). A step whose conditions do not hold
changes nothing: the host is NAKed or times out (R144). -/

namespace Sys2Proof.Machine

/-- The conditions of a token step that do not depend on the endpoint (R144). -/
def State.linkReady (s : State) : Bool :=
  s.regs.ctlEnable && !s.regs.suspended && !s.regs.istat.getLsbD 0 &&
    s.regs.statFifo.length < s.cfg.statDepth

/-- A token's endpoint is one of the block's (R157: "address only this device"). -/
def State.linkEp (s : State) (ep : Byte) : Bool := ep.toNat ≤ s.cfg.nEp.toNat

/-- `ENDPT[ep].stall` = 1 and the endpoint is enabled (R151). -/
def State.linkStalls (s : State) (ep : Ep) : Bool :=
  epcStall (s.endptReg ep) && (epcRxen (s.endptReg ep) || epcTxen (s.endptReg ep))

/-- The endpoint is enabled for the direction (R144). -/
def State.linkEnabled (s : State) (ep : Ep) (d : Dir) : Bool :=
  match d with
  | .rx => epcRxen (s.endptReg ep)
  | .tx => epcTxen (s.endptReg ep)

/-- The slot a token uses: bank `hw_bank[ep][dir]` and no other (R145). -/
def State.tokenSlot (s : State) (ep : Ep) (d : Dir) : SlotIx := slotOf ep d (s.bankOf ep d)

/-- The descriptor a token meets. -/
def State.tokenDesc (s : State) (ep : Ep) (d : Dir) : Word := (s.slot (s.tokenSlot ep d)).desc

/-- Answer STALL (R151). -/
def State.answerStall (s : State) : State := s.raiseIstat 0x80

/-- A token on an endpoint, up to the point where the armed slot is used: the gates of R144 in order (log 19),
then `k`. -/
def State.token (s : State) (ep : Byte) (d : Dir) (k : Out) : Out :=
  if !(s.linkReady && s.linkEp ep) then .next s
  else if s.linkStalls (epOf ep) then .next s.answerStall
  else if !s.linkEnabled (epOf ep) d then .next s
  else if !descOwn (s.tokenDesc (epOf ep) d) then .next s
  else if descStall (s.tokenDesc (epOf ep) d) then .next s.answerStall
  else k

/-- `complete(ep, dir)` (R149): the status byte, the bank pointer, the flag (which is read off the queue). -/
def State.complete (s : State) (ep : Ep) (d : Dir) : State :=
  (s.pushStat (statOf ep d (s.bankOf ep d))).setBank ep d (s.bankOf ep d).flip

/-- Write a completed descriptor in place: count, the slot's own toggle, token kind. -/
def State.closeSlot (s : State) (ep : Ep) (d : Dir) (n : BitVec 10) (tok : BitVec 4) : State :=
  s.setDesc (s.tokenSlot ep d) (completedWord n (descTog (s.tokenDesc ep d)) tok)

/-- The effect of LINK.OUT (R146). -/
def State.acceptOut (s : State) (ep : Ep) (data : List Byte) : State :=
  ((s.store (s.slot (s.tokenSlot ep .rx)).addr data).closeSlot ep .rx (BitVec.ofNat 10 data.length)
    tokOUT).complete ep .rx

/-- `suspended <- true` (R147). -/
def State.suspend (s : State) : State := { s with regs := { s.regs with suspended := true } }

/-- The effect of LINK.SETUP (R147). -/
def State.acceptSetup (s : State) (data : List Byte) : State :=
  (((s.store (s.slot (s.tokenSlot 0 .rx)).addr data).closeSlot 0 .rx 8 tokSETUP).suspend).complete 0 .rx

/-- The bytes of an armed transmit slot (R148, 20_memory.md R84). -/
def State.slotBytes (s : State) (k : SlotIx) : List Byte :=
  memRead s.mem (s.slot k).addr (s.countOf k).toNat

/-- The effect of LINK.IN (R148). -/
def State.sendIn (s : State) (ep : Ep) : State :=
  ((s.emit (.sent ep (descTog (s.tokenDesc ep .tx)) (s.slotBytes (s.tokenSlot ep .tx)))).closeSlot ep .tx
    (descCount (s.tokenDesc ep .tx)) tokIN).complete ep .tx

/-- Toggle checking drops the packet (R146, `RX_TOGGLE_CHECK`, 30_encoding.md R102 `dts`; log 20). -/
def State.dropsToggle (s : State) (ep : Ep) (t : Toggle) : Bool :=
  s.cfg.rxToggleCheck && epcHshk (s.endptReg ep) && descDts (s.tokenDesc ep .rx) &&
    t != descTog (s.tokenDesc ep .rx)

/-! ## The instructions -/

/-- LINK.SETUP (R147). -/
def execLinkSetup (data : List Byte) (s : State) : Out :=
  s.token 0 .rx
    (if epcCtldis (s.endptReg 0) || (descCount (s.tokenDesc 0 .rx)).toNat < 8 then .next s
     else s.withReceive (s.slot (s.tokenSlot 0 .rx)).addr data.length (.next (s.acceptSetup data)))

/-- LINK.OUT (R146). -/
def execLinkOut (ep : Byte) (tog : Toggle) (data : List Byte) (s : State) : Out :=
  s.token ep .rx
    (if (descCount (s.tokenDesc (epOf ep) .rx)).toNat < data.length || s.dropsToggle (epOf ep) tog then .next s
     else s.withReceive (s.slot (s.tokenSlot (epOf ep) .rx)).addr data.length
       (.next (s.acceptOut (epOf ep) data)))

/-- LINK.IN (R148). -/
def execLinkIn (ep : Byte) (s : State) : Out :=
  s.token ep .tx
    (withSpan s.cfg (s.slot (s.tokenSlot (epOf ep) .tx)).addr
      (descCount (s.tokenDesc (epOf ep) .tx)).toNat (.next (s.sendIn (epOf ep))))

/-- LINK.SOF (R152): "whenever `CTL.enable` = 1". -/
def execLinkSof (s : State) : Out := .next (if s.regs.ctlEnable then s.raiseIstat 0x04 else s)

/-- LINK.RESET (R153). -/
def execLinkReset (s : State) : Out := .next (if s.regs.ctlEnable then s.raiseIstat 0x01 else s)

/-- `ERRSTAT <- ERRSTAT | m`. -/
def State.latchErrors (s : State) (m : Byte) : State :=
  { s with regs := { s.regs with errStat := s.regs.errStat ||| m } }

/-- LINK.ERROR (R154); a zero mask is no event (log 28). -/
def execLinkError (m : Byte) (s : State) : Out :=
  .next (if !s.regs.ctlEnable || m = 0 then s
    else if (s.regs.errStat ||| m) &&& s.regs.errEn != 0 then (s.latchErrors m).raiseIstat 0x02
    else s.latchErrors m)

/-- LINK.SLEEP (R155). -/
def execLinkSleep (s : State) : Out := .next (if s.regs.ctlEnable then s.raiseIstat 0x10 else s)

/-- LINK.STALLED (R151). -/
def execLinkStalled (ep : Byte) (s : State) : Out :=
  .next (if s.linkReady && s.linkEp ep && s.linkStalls (epOf ep) then s.answerStall else s)

/-- LINK.NAK (R150): "No state changes at all". -/
def execLinkNak (_ep : Byte) (_dir : Dir) (s : State) : Out := .next s

/-- complete (R149). -/
def execLinkComplete (ep : Ep) (dir : Dir) (s : State) : Out := .next (s.complete ep dir)

end Sys2Proof.Machine
end

