-- ==== Sys2Proof/Machine/Bdt.lean ====
section
/-! DEFINITION. The two table operations from outside (spec/40_bdt_link.md R140, R141) and the descriptor words
by form (R143, 30_encoding.md R102 to R104). -/

namespace Sys2Proof.Machine

/-- How a count that runs past the buffer at the slot's address is refused: a receive count is "above the buffer's
capacity" (30_encoding.md R119 (h)), a length to send is "beyond the caller's buffer" (60_exceptions.md R345). -/
def countRefusal : Dir → Refusal
  | .rx => .countAboveCapacity
  | .tx => .pastBuffer

/-- The link may use `n` bytes at `a` as slot `k` does: a receive slot's are not in the descriptor store (20_memory.md
R70, R86). -/
def State.linkMayUse (s : State) (k : SlotIx) (a : Word) (n : BitVec 10) : Bool :=
  slotDir k = .tx || s.storeApart a n.toNat

/-- A caller from outside arms slot `k` (R140): refused where the block holds the slot (93 U12), where the count runs
past the buffer at `addr`, whatever buffer that is (20_memory.md R83), and where a receive buffer is in the descriptor
store (log 29). -/
def State.armOutside (s : State) (k : SlotIx) (v : Slot) : Out :=
  if s.slotBusy k then .refused .slotOwned
  else if !s.fitsBuffer v.addr (descCount v.desc).toNat then .refused (countRefusal (slotDir k))
  else if !s.linkMayUse k v.addr (descCount v.desc) then .refused .storeReadOnly
  else .next (s.setSlot k v)

/-! ## The link's completion of a slot, as the word it leaves (R146 to R148) -/

/-- The count and toggle of a completed word are ones the link leaves in slot `k`: the armed toggle; for an IN the
armed count, for a SETUP 8. -/
def State.wordFits (s : State) (k : SlotIx) (n : BitVec 10) (tog : Toggle) (kind : TokKind) : Bool :=
  tog = descTog (s.slot k).desc &&
    match kind with
    | .setup => n = 8
    | .out => true
    | .in_ => n = descCount (s.slot k).desc
    | .other => false

/-- The transaction that leaves a completed word in slot `k`: the token of the slot's endpoint whose direction has
that kind, if the slot is of the bank the link looks at; the payload is what stands in the buffer (log 21). -/
def State.completeSlot (s : State) (k : SlotIx) (n : BitVec 10) (kind : TokKind) : Out :=
  if k != s.tokenSlot (slotEp k) (slotDir k) then .next s
  else match kind, slotDir k with
    | .setup, .rx => if slotEp k = 0 then execLinkSetup (memRead s.mem (s.slot k).addr 8) s else .next s
    | .out, .rx => execLinkOut ((slotEp k).setWidth 8) (descTog (s.slot k).desc)
        (memRead s.mem (s.slot k).addr n.toNat) s
    | .in_, .tx => execLinkIn ((slotEp k).setWidth 8) s
    | .setup, .tx => .next s
    | .out, .tx => .next s
    | .in_, .rx => .next s
    | .other, _ => .next s

/-! ## The instructions -/

/-- BDT.WRITE (R140; the refusals: log 29). -/
def execBdtWrite (ep : Byte) (dir : Dir) (bank : Bank) (n : BitVec 10) (tog : Toggle) (addr : Word)
    (s : State) : Out :=
  if s.cfg.nEp.toNat < ep.toNat then .refused .slotOutsideTable
  else s.armOutside (slotOf (epOf ep) dir bank) ⟨armedWord n tog, addr⟩

/-- BDT.READC (R141): "valid only after hardware has released ownership". -/
def execBdtReadc (ep : Byte) (dir : Dir) (bank : Bank) (s : State) : Out :=
  if s.cfg.nEp.toNat < ep.toNat then .refused .slotOutsideTable
  else if descOwn (s.slot (slotOf (epOf ep) dir bank)).desc then .refused .slotOwned
  else .next (s.setResult (.completion (s.countOf (slotOf (epOf ep) dir bank)).toNat
    (s.slot (slotOf (epOf ep) dir bank)).addr))

/-- DESC.ARMED: software gives the slot to the link, `addr` as it stands (R143; log 21). -/
def execDescArmed (slot : SlotIx) (count : BitVec 10) (bits : ArmedBits) (s : State) : Out :=
  if s.cfg.slotCount ≤ slot.toNat then .refused .slotOutsideTable
  else s.armOutside slot ⟨armedForm count bits.tog bits.flags, (s.slot slot).addr⟩

/-- DESC.COMPLETED: the link's completion that leaves this word (R143: "Armed → Completed by exactly one link
completion"); a word no transaction leaves there is no step of the link (log 21). -/
def execDescCompleted (slot : SlotIx) (count : BitVec 10) (tog : Toggle) (tok : BitVec 4) (s : State) : Out :=
  if s.wordFits slot count tog (classifyTok tok) then s.completeSlot slot count (classifyTok tok) else .next s

/-- DESC.UNARMED: a software write of 0 (R143; log 21). -/
def execDescUnarmed (slot : SlotIx) (s : State) : Out :=
  if s.cfg.slotCount ≤ slot.toNat then .refused .slotOutsideTable
  else if s.slotBusy slot then .refused .slotOwned
  else .next (s.setDesc slot unarmedWord)

end Sys2Proof.Machine
end

