-- ==== Sys2Proof/Machine/Context.lean ====
section
/-! DEFINITION. Bus initialisation, the reboot timer and the critical section (spec/45_dispatcher.md R316,
R318, 60_exceptions.md R353). -/

namespace Sys2Proof.Machine

/-- `BDT.CLEAR`: every `desc` and `addr` zero (40_bdt_link.md R142). -/
def State.clearTable (s : State) : State := { s with bdt := Tab.fill ⟨0, 0⟩ }

/-- `reboot_timer <- n`. -/
def State.setTimer (s : State) (n : Nat) : State := { s with ctx := { s.ctx with rebootTimer := n } }

/-- `SET_REBOOT_TIMER(n)` (R318): `n` above `TIMER_MAX` is refused. -/
def State.armTimer (s : State) (n : Nat) : Out :=
  if s.cfg.timerMax < n then .refused .timerAboveMax else .next (s.setTimer n)

/-- `irq_mask <- v`. -/
def State.setIrqMask (s : State) (v : Bool) : State := { s with ctx := { s.ctx with irqMask := v } }

/-- The headers BUS.INIT leaves: `len` and `index` are not written, the owner tags are those of the pools
(R316, 41_allocator.md R173). -/
def State.retagged (s : State) : List Pkt :=
  (List.range s.cfg.numBuffers).map fun i => { s.pkt i with owner := (initOwners s.cfg).getD i 0 }

/-- The state BUS.INIT leaves (R316). Not written: `setup`, the buffers, the packets' contents, the
environment. -/
def State.busInit (s : State) : State where
  cfg := s.cfg
  regs := Regs.init s.cfg
  bdt := s.clearTable.bdt
  hwBank := Tab.fill .even
  pool := ⟨s.retagged, initFreeMap s.cfg, initFreeList s.cfg⟩
  eps := Tab.fill Endpoint.init
  ep0 := ⟨s.ep0.setup, none, 0, .data0, .even, 0, false, 0, .idle, false⟩
  ctx := ⟨0, false, false, 0, .top, 0⟩
  mem := s.mem
  env := s.env

/-! ## The instructions -/

/-- BDT.CLEAR (40_bdt_link.md R142). -/
def execBdtClear (s : State) : Out := .next s.clearTable

/-- BUS.INIT (R316): issued by FG outside a critical section, the interrupt not running; a misaligned
`BDT_BASE` is refused (20_memory.md R72; log 30). -/
def execBusInit (s : State) : Out :=
  if s.ctx.irqMask || s.ctx.inIsr then .refused .busInitContext
  else if s.cfg.bdtBase.toNat % s.cfg.bdtAlign != 0 then .refused .tableMisaligned
  else .next s.busInit

/-- SET_REBOOT_TIMER (R318). -/
def execSetRebootTimer (n : BitVec 32) (s : State) : Out := s.armTimer n.toNat

/-- CS.ENTER (60_exceptions.md R353): "the pair does not nest". -/
def execCsEnter (s : State) : Out :=
  if s.ctx.irqMask then .refused .nestedSection else .next (s.setIrqMask true)

/-- CS.EXIT (60_exceptions.md R353). -/
def execCsExit (s : State) : Out :=
  if s.ctx.irqMask then .next (s.setIrqMask false) else .refused .noSection

end Sys2Proof.Machine
end

