-- ==== Sys2Proof/Machine/Transmit.lean ====
section
/-! DEFINITION. The transmit path of endpoint 0 (spec/44_control_transfer.md R256, R257, R260): EP0.TRANSMIT,
EP0.SEND with its two-bank prefill and remainder, and the IN completion. -/

namespace Sys2Proof.Machine

/-- `EP0.TRANSMIT(a, n)` (R256): arm the current bank with the current toggle, then flip both. -/
def State.ep0Transmit (s : State) (a : Word) (n : Nat) : State :=
  { s.arm 0 .tx s.ep0.txBank (BitVec.ofNat 10 n) s.ep0.txToggle a with
    ep0 := { s.ep0 with txToggle := s.ep0.txToggle.flip, txBank := s.ep0.txBank.flip } }

/-- `ep0_tx_ptr <- p; ep0_tx_len <- n`. -/
def State.setRemainder (s : State) (p : Option Word) (n : Nat) : State :=
  { s with ep0 := { s.ep0 with txPtr := p, txLen := n } }

/-- A chunk ends the reply: nothing is left after it and it is shorter than `EP0_SIZE` (R257, R260). -/
def endsReply (c : Config) (left n : Nat) : Bool := left = 0 && n < c.ep0Size

/-- The second bank and the remainder of `EP0.SEND`: `len` bytes at `a` are left (R257). -/
def State.ep0SendSecond (s : State) (a : Word) (len : Nat) : State :=
  let n := min len s.cfg.ep0Size
  if endsReply s.cfg (len - n) n then s.ep0Transmit a n
  else (s.ep0Transmit a n).setRemainder (some (a + BitVec.ofNat 32 n)) (len - n)

/-- `EP0.SEND` of a length already clamped to `wLength` (R257). -/
def State.ep0SendClamped (s : State) (a : Word) (len : Nat) : State :=
  let n := min len s.cfg.ep0Size
  if endsReply s.cfg (len - n) n then s.ep0Transmit a n
  else (s.ep0Transmit a n).ep0SendSecond (a + BitVec.ofNat 32 n) (len - n)

/-- `EP0.SEND(a, L)` (R257). -/
def State.ep0Send (s : State) (a : Word) (len : Nat) : State :=
  s.ep0SendClamped a (min len s.ep0.setup.wLength.toNat)

/-- The remainder's next chunk, if a reply is still owed (R260). -/
def State.drainRemainder (s : State) : State :=
  match s.ep0.txPtr with
  | none => s
  | some a =>
    let n := min s.ep0.txLen s.cfg.ep0Size
    if endsReply s.cfg (s.ep0.txLen - n) n then (s.ep0Transmit a n).setRemainder none (s.ep0.txLen - n)
    else (s.ep0Transmit a n).setRemainder (some (a + BitVec.ofNat 32 n)) (s.ep0.txLen - n)

/-- The deferred SET_ADDRESS, applied exactly once (R260, R265). -/
def State.applyAddress (s : State) : State :=
  if s.ep0.addrPending then
    { s with regs := { s.regs with addr := s.ep0.addrLatch }, ep0 := { s.ep0 with addrPending := false } }
  else s

/-- `ep0_phase <- p`. -/
def State.setPhase (s : State) (p : Phase) : State := { s with ep0 := { s.ep0 with phase := p } }

/-- The phase after an IN completion (R260, R268). -/
def Phase.afterIn : Phase → Phase
  | .statusStage => .idle
  | p => p

/-- The model's record that a control transfer is open (log 18). -/
def State.setOpen (s : State) (v : Bool) : State := { s with ep0 := { s.ep0 with transferOpen := v } }

/-- The request is device-to-host with a data stage, so that its IN completions are that stage's; of any other request
an IN completion is the status stage (R268; log 18). -/
def Setup.sendsData (p : Setup) : Bool := p.bmRequestType.getLsbD 7 && p.wLength != 0

/-- Whether the transfer is still open after an IN completion. -/
def State.openAfterIn (s : State) : Bool := s.ep0.transferOpen && s.ep0.setup.sendsData

/-- `EP0.IN(s)` (R260): the operand is not used. -/
def State.ep0In (s : State) : State :=
  (s.drainRemainder.applyAddress.setPhase s.ep0.phase.afterIn).setOpen s.openAfterIn

/-! ## The instructions -/

/-- EP0.TRANSMIT as a command (R256): a count above `EP0_SIZE` or past the caller's buffer (20_memory.md R83), or no
control transfer open (93 U12; log 18), is refused. That the buffer may lie in a packet, an endpoint-0 buffer or a
descriptor is the model's choice, DESIGN CHOICE (log 40): 20_memory.md R70 calls it an application buffer and names no
refusal. -/
def execEp0Transmit (addr : Word) (n : BitVec 10) (s : State) : Out :=
  if s.cfg.ep0Size < n.toNat then .refused .ep0TooLong
  else if !s.ep0.transferOpen then .refused .noTransferOpen
  else if !s.fitsBuffer addr n.toNat then .refused .pastBuffer
  else .next (s.ep0Transmit addr n.toNat)

/-- EP0.SEND (R257). -/
def execEp0Send (addr : Word) (len : BitVec 32) (s : State) : Out := .next (s.ep0Send addr len.toNat)

/-- EP0.IN (R260). -/
def execEp0In (_slot : SlotIx) (s : State) : Out := .next s.ep0In

/-- TOK.IN: EP0.HANDLE of a completed slot with token kind 0x9: EP0.IN, then the clear-suspend write (R240). -/
def execTokIn (_slot : SlotIx) (s : State) : Out := .next (s.ep0In.writeCtl 0x01)

/-- TOK.OTHER: nothing but the clear-suspend write (R240, 30_encoding.md R115). -/
def execTokOther (_slot : SlotIx) (_tok : BitVec 4) (s : State) : Out := .next (s.writeCtl 0x01)

end Sys2Proof.Machine
end

