-- ==== Sys2Proof/Machine/Hooks.lean ====
section
/-! DEFINITION. The application's writes and what a hook may call (spec/70_reset_and_hazards.md R386,
60_exceptions.md R354, R360): operations of the block on behalf of collaborators, and the answers of the
hooks taken from the environment (log 10, 11). -/

namespace Sys2Proof.Machine

/-- Fill a packet the application holds: the bytes at its buffer, `len` their number, `index` 0. -/
def State.appFill (s : State) (i : Nat) (bytes : List Byte) : Out :=
  if !s.pktHeld i then .refused .packetNotHeld
  else if s.cfg.pktCap < bytes.length then .refused .packetTooLong
  else if !s.notPending (s.bufAddr i) bytes.length then .refused .bufferInFlight
  else withSpan s.cfg (s.bufAddr i) bytes.length
    (.next ((s.store (s.bufAddr i) bytes).setPkt i ⟨bytes.length, 0, (s.pkt i).owner⟩))

/-- Move the read cursor of a packet the application holds, within `0..len` (10_state.md R40). -/
def State.appCursor (s : State) (i index : Nat) : Out :=
  if !s.pktHeld i then .refused .packetNotHeld
  else if (s.pkt i).len < index then .refused .packetTooLong
  else .next (s.setPkt i ⟨(s.pkt i).len, index, (s.pkt i).owner⟩)

/-- Where a collaborator may store: outside the block's own regions (20_memory.md R70), and in `reply_buf` while it owns
the transfer (44_control_transfer.md R269), which is while one is open (log 10, 18). -/
def State.mayStore (s : State) (a : Word) (n : Nat) : Bool :=
  s.cfg.blockRegions.all (spansApart (a.toNat, n)) || (s.ep0.transferOpen && spanInside (a.toNat, n) s.cfg.replySpan)

/-- Store to an application buffer, the descriptor store or `reply_buf`, but not over bytes the link has still to read
(20_memory.md R86, 70_reset_and_hazards.md R386 (f), R393). -/
def State.appStore (s : State) (a : Word) (bytes : List Byte) : Out :=
  if 2 ^ 32 < a.toNat + bytes.length then .fault .addressOutsideSpace
  else if !s.mayStore a bytes.length then .refused .notApplicationBuffer
  else if !s.notPending a bytes.length then .refused .bufferInFlight
  else .next (s.store a bytes)

/-- A write of the application. -/
def appStep (a : AppAct) (s : State) : Out :=
  match a with
  | .fill i bytes => s.appFill i bytes
  | .cursor i index => s.appCursor i index
  | .store addr bytes => s.appStore addr bytes

/-- ALLOC of the build's strategy with its result, as a hook issues it. -/
def State.allocCommand (s : State) (ep : Byte) : State :=
  (s.allocate ep).2.setResult (.packet (s.allocate ep).1)

/-- One operation a hook performs (R354); that it may also make the application's writes is the model's choice, DESIGN
CHOICE (log 11). -/
def runCall (c : HookCall) (s : State) : Out :=
  match c with
  | .alloc ep => .next (s.allocCommand ep)
  | .release p => execRelease p s
  | .txSubmit ep p => execTxSubmit ep p s
  | .isoSubmit ep a n => execIsoSubmit ep a n s
  | .ep0Transmit a n => execEp0Transmit a n s
  | .setRebootTimer n => execSetRebootTimer n s
  | .app a => appStep a s

/-- A hook's calls, in order. -/
def runCalls (cs : List HookCall) (s : State) : Out := forEach runCall cs s

/-- The optional reboot-timer value of a hook's answer (44_control_transfer.md R254, R261). -/
def State.hookTimer (s : State) (t : Option Nat) : Out :=
  match t with
  | none => .next s
  | some n => s.armTimer n

/-- The next class-hook answer and the state without it; NotHandled where the environment gives none. -/
def State.nextClassAnswer (s : State) : ClassAnswer × State :=
  match s.env.classAnswers with
  | [] => (⟨[], .notHandled, none⟩, s)
  | a :: rest => (a, { s with env := { s.env with classAnswers := rest } })

/-- The next OUT-hook answer; "the default hook says `NotRecognised`" (44_control_transfer.md R261). -/
def State.nextOutAnswer (s : State) : OutAnswer × State :=
  match s.env.outAnswers with
  | [] => (⟨[], .notRecognised, none⟩, s)
  | a :: rest => (a, { s with env := { s.env with outAnswers := rest } })

/-- What `TICK_HOOK` calls this time. -/
def State.nextTickScript (s : State) : List HookCall × State :=
  match s.env.tickScripts with
  | [] => ([], s)
  | a :: rest => (a, { s with env := { s.env with tickScripts := rest } })

/-- `TICK_HOOK()` (45_dispatcher.md R302). -/
def State.tickHook (s : State) : Out := runCalls s.nextTickScript.1 s.nextTickScript.2

end Sys2Proof.Machine
end

