-- ==== Sys2Proof/Machine/Requests.lean ====
section
/-! DEFINITION. The request handlers of the control-transfer engine (spec/44_control_transfer.md R243 to R254)
and the stall of endpoint 0 (R262). -/

namespace Sys2Proof.Machine

/-- How a request handler ends: it served the request, it raised Stall0 (with the state EP0.STALL left), or it
stopped the run. -/
inductive ReqOut where
  | served (s : State)
  | stalled (s : State)
  | fault (f : Fault)
  | refused (r : Refusal)

/-- A handler goes on with the next state of an operation. -/
def ReqOut.after (o : Out) (k : State → ReqOut) : ReqOut :=
  match o with
  | .next s => k s
  | .fault f => .fault f
  | .refused r => .refused r

/-- A handler's outcome as a step: a served and a stalled request are both next states (60_exceptions.md
R342: the dispatcher continues normally). -/
def ReqOut.toOut (r : ReqOut) : Out :=
  match r with
  | .served s => .next s
  | .stalled s => .next s
  | .fault f => .fault f
  | .refused r => .refused r

/-! ## Taking the exception Stall0 (R262, 60_exceptions.md R340 to R342) -/

/-- `EP0.STALL`: `ENDPT[0] <- 0x0F`, nothing else. -/
def State.stallEp0 (s : State) : State := s.setEndptReg 0 0x0F

/-- `raise Stall0`: the handler is left at once. -/
def raiseStall0 (s : State) : ReqOut := .stalled s.stallEp0

/-! ## Replies -/

/-- `reply_buf <- bytes; EP0.SEND(REPLY_ADDR, len(bytes))`. -/
def State.reply (s : State) (bytes : List Byte) : State :=
  (s.store s.cfg.replyAddr bytes).ep0Send s.cfg.replyAddr bytes.length

/-- The zero-length status-stage IN, `EP0.SEND(REPLY_ADDR, 0)`. -/
def State.statusIn (s : State) : State := s.ep0Send s.cfg.replyAddr 0

/-! ## SET_CONFIGURATION (R247) -/

/-- `configuration <- v`, every `starved` flag cleared. -/
def State.beginConfiguration (s : State) (v : Byte) : State :=
  s.cfg.endpoints.foldl (fun t e => t.setStarved e false) { s with ep0 := { s.ep0 with configuration := v } }

/-- Step 1 for one slot: an owned slot's packet goes back to the pool, with no redirection. -/
def returnSlot (k : SlotIx) (s : State) : Out :=
  if descOwn (s.slot k).desc then
    match s.pktOfAddr (s.slot k).addr with
    | some i => s.poolReturn i
    | none => .next s
  else .next s

/-- `pool_return` of each packet of a list. -/
def returnAll (l : List Nat) (s : State) : Out := forEach (fun i t => t.poolReturn i) l s

/-- Step 2 for one endpoint, its queues returned: queues, counter, bank state, and the record of R220. -/
def State.tornDown (s : State) (ep : Ep) : State :=
  s.setEndpoint ep { s.endpoint ep with
    rxq := []
    rxBytes := 0
    txq := []
    txState := teardownBank s.cfg.teardownMap (s.endpoint ep).txState
    discipline := .unused }

/-- Step 2 for one endpoint. -/
def tearDown (ep : Ep) (s : State) : Out :=
  andThen (returnAll (s.endpoint ep).rxq s) fun t =>
  andThen (returnAll (s.endpoint ep).txq t) fun u => .next (u.tornDown ep)

/-- `ENDPT[ep] <- v; ep_cfg[ep] <- v`. -/
def State.configureEp (s : State) (ep : Ep) (v : Byte) : State :=
  (s.setEndptReg ep v).setEndpoint ep { s.endpoint ep with epCfg := v }

/-- The four slots of an endpoint Unarmed. -/
def State.unarmEp (s : State) (ep : Ep) : State :=
  (((s.setDesc (slotOf ep .rx .even) unarmedWord).setDesc (slotOf ep .rx .odd) unarmedWord).setDesc
    (slotOf ep .tx .even) unarmedWord).setDesc (slotOf ep .tx .odd) unarmedWord

/-- A receive bank is armed with a fresh packet, or the endpoint is starved. -/
def State.provision (s : State) (ep : Ep) (b : Bank) : State :=
  match s.allocate (ep.setWidth 8) with
  | (some i, t) => t.armRx ep b i
  | (none, t) => t.setStarved ep true

/-- Step 3 for one endpoint. -/
def State.enableEp (s : State) (ep : Ep) : State :=
  let t := (s.configureEp ep (s.cfg.epConfig.get ep)).unarmEp ep
  if epcRxen (s.cfg.epConfig.get ep) then (t.provision ep .even).provision ep .odd else t

/-- Step 3. -/
def State.enableAll (s : State) : State := s.cfg.endpoints.foldl State.enableEp s

/-- Steps 1 and 2: "tears down all endpoint queues/buffers/banks". -/
def tearDownAll (s : State) : Out :=
  andThen (forEach returnSlot (Config.dataSlots s.cfg) s) fun t =>
    forEach tearDown s.cfg.endpoints t

/-- `REQ.SET_CONFIGURATION` (R247). -/
def State.setConfiguration (s : State) : Out :=
  andThen (tearDownAll (s.beginConfiguration s.ep0.setup.configValue)) fun t => .next t.enableAll.statusIn

/-! ## The other standard requests -/

/-- `REQ.SET_ADDRESS` (R246): latched, applied by the status-stage IN. -/
def State.setAddress (s : State) : State :=
  State.statusIn { s with ep0 := { s.ep0 with addrLatch := s.ep0.setup.deviceAddress, addrPending := true } }

/-- `REQ.GET_CONFIGURATION` (R248). -/
def State.getConfiguration (s : State) : State := s.reply [s.ep0.configuration]

/-- The length GET_DESCRIPTOR sends of an entry: a string's own length byte, else the fixed length (R249). -/
def State.descLength (s : State) (e : DescEntry) : Nat :=
  if s.ep0.setup.descType = 3 then (s.byte e.addr).toNat else e.length

/-- `REQ.GET_DESCRIPTOR` (R249). -/
def State.getDescriptor (s : State) : ReqOut :=
  match s.findDescriptor with
  | some e => .served (s.ep0Send e.addr (s.descLength e))
  | none => raiseStall0 s

/-- `REQ.GET_STATUS_DEV` (R250). -/
def State.getStatusDev (s : State) : State := s.reply [0, 0]

/-- The index check of the endpoint requests (R244, R245): above `E_CMP`, or malformed, stalls; an index that
passes and exceeds `N_EP` faults. -/
def indexed (s : State) (i : Nat) (malformed : Bool) (k : Ep → ReqOut) : ReqOut :=
  if s.cfg.eCmp < i || malformed then raiseStall0 s
  else if s.cfg.nEp.toNat < i then .fault .endpointIndexOutOfRange
  else k (BitVec.ofNat 4 i)

/-- `ENDPT[i].stall` as a byte. -/
def State.haltByte (s : State) (e : Ep) : Byte := if epcStall (s.endptReg e) then 1 else 0

/-- `REQ.GET_STATUS_EP` (R251). -/
def State.getStatusEp (s : State) : ReqOut :=
  indexed s s.statusIndex false fun e => .served (s.reply [s.haltByte e, 0])

/-- `ENDPT[e].stall <- v`, the other bits unchanged. -/
def State.setHalt (s : State) (e : Ep) (v : Bool) : State :=
  s.setEndptReg e (if v then s.endptReg e ||| 0x02 else s.endptReg e &&& 0xFD)

/-- CLEAR_FEATURE and SET_FEATURE (R252, R253). -/
def State.featureEp (s : State) (v : Bool) : ReqOut :=
  indexed s s.featureIndex (s.ep0.setup.wValue != 0) fun e => .served (s.setHalt e v).statusIn

/-- `REQ.OTHER` with `n` hooks left to ask (R254). -/
def classHooks : Nat → State → ReqOut
  | 0, s => raiseStall0 s
  | n + 1, s =>
    ReqOut.after (runCalls s.nextClassAnswer.1.calls s.nextClassAnswer.2) fun t =>
    ReqOut.after (t.hookTimer s.nextClassAnswer.1.timer) fun u =>
      match s.nextClassAnswer.1.outcome with
      | .notHandled => classHooks n u
      | .reply bytes =>
          if u.cfg.replyBufSize < bytes.length then .refused .replyTooLong else .served (u.reply bytes)
      | .deferred => .served u

/-- `REQ.OTHER` (R254). -/
def State.otherRequest (s : State) : ReqOut := classHooks s.cfg.numClassHooks s

/-! ## Dispatch (R243) -/

/-- The handler of the captured request: "exactly one row matches". -/
def State.runRequest (s : State) : ReqOut :=
  match s.request with
  | .getStatusDev => .served s.getStatusDev
  | .getStatusEp => s.getStatusEp
  | .clearFeatureEp => s.featureEp false
  | .setFeatureEp => s.featureEp true
  | .setAddress => .served s.setAddress
  | .getDescriptor => s.getDescriptor
  | .getConfiguration => .served s.getConfiguration
  | .setConfiguration => ReqOut.after s.setConfiguration .served
  | .other => s.otherRequest

/-- The phase a served request leaves (R243, R268). -/
def Setup.servedPhase (p : Setup) : Phase := if p.wLength = 0 then .statusStage else .dataStage

/-- `REQ.DISPATCH` (R243); Stall0 ends the transfer (R263: "a device-initiated stall"; log 18). -/
def State.dispatchRequest (s : State) : Out :=
  match s.runRequest with
  | .served t => .next (t.setPhase s.ep0.setup.servedPhase)
  | .stalled t => .next ((t.setPhase .idle).setOpen false)
  | .fault f => .fault f
  | .refused r => .refused r

/-! ## The instructions -/

/-- REQ.GET_STATUS_DEV (R250). -/
def execReqGetStatusDev (s : State) : Out := .next s.getStatusDev

/-- REQ.GET_STATUS_EP (R251). -/
def execReqGetStatusEp (s : State) : Out := s.getStatusEp.toOut

/-- REQ.CLEAR_FEATURE_EP (R252). -/
def execReqClearFeatureEp (s : State) : Out := (s.featureEp false).toOut

/-- REQ.SET_FEATURE_EP (R253). -/
def execReqSetFeatureEp (s : State) : Out := (s.featureEp true).toOut

/-- REQ.SET_ADDRESS (R246). -/
def execReqSetAddress (s : State) : Out := .next s.setAddress

/-- REQ.GET_DESCRIPTOR (R249), by the captured `wValue` and `wIndex`. -/
def execReqGetDescriptor (_bmRequestType : Byte) (s : State) : Out := s.getDescriptor.toOut

/-- REQ.GET_CONFIGURATION (R248). -/
def execReqGetConfiguration (s : State) : Out := .next s.getConfiguration

/-- REQ.SET_CONFIGURATION (R247). -/
def execReqSetConfiguration (s : State) : Out := s.setConfiguration

/-- REQ.OTHER (R254): the captured `setup` is offered to the hooks. -/
def execReqOther (_bRequest _bmRequestType : Byte) (s : State) : Out := s.otherRequest.toOut

/-- REQ.DISPATCH (R243). -/
def execReqDispatch (s : State) : Out := s.dispatchRequest

/-- EP0.STALL (R262). -/
def execEp0Stall (s : State) : Out := .next s.stallEp0

end Sys2Proof.Machine
end

