-- ==== Sys2Proof/Machine/Control.lean ====
section
/-! DEFINITION. The control-transfer engine's completions on endpoint 0 (spec/44_control_transfer.md R240,
R241, R261). -/

namespace Sys2Proof.Machine

/-- Re-arm a receive slot of endpoint 0: `DESC(EP0_SIZE, DATA1)`, `addr` unchanged (R241, R261). -/
def State.rearmEp0 (s : State) (slot : SlotIx) : State :=
  s.setDesc slot (armedWord (Config.ep0Count s.cfg) .data1)

/-- EP0.SETUP up to the dispatch: capture, re-arm, clear the stale pending-IN state (R241). -/
def State.captureSetup (s : State) (slot : SlotIx) : State :=
  let t := ((s.rearmEp0 slot).setDesc (slotOf 0 .tx .even) unarmedWord).setDesc (slotOf 0 .tx .odd) unarmedWord
  { t with ep0 := { s.ep0 with
      setup := decodeSetup (memRead s.mem (s.slot slot).addr 8)
      txPtr := none
      txLen := 0
      txToggle := .data1
      addrPending := false
      phase := .setupReceived
      transferOpen := true } }

/-- `EP0.SETUP(s)` (R241). -/
def State.ep0Setup (s : State) (slot : SlotIx) : Out :=
  withSpan s.cfg (s.slot slot).addr 8 (s.captureSetup slot).dispatchRequest

/-- The phase after an OUT completion (R261, R268). -/
def State.phaseAfterOut (s : State) (o : OutOutcome) : Phase :=
  match o with
  | .ack => .statusStage
  | .defer => if s.ep0.setup.bmRequestType.getLsbD 7 then .idle else s.ep0.phase
  | .notRecognised => if s.ep0.setup.bmRequestType.getLsbD 7 then .idle else s.ep0.phase

/-- The acknowledgement, a zero-length status-stage IN (R261). -/
def State.acknowledge (s : State) (o : OutOutcome) : State :=
  match o with
  | .ack => s.ep0Transmit s.cfg.replyAddr 0
  | .defer => s
  | .notRecognised => s

/-- Whether the transfer is still open after an OUT completion: an OUT is the status stage of a device-to-host
transfer (R261; log 18). -/
def State.openAfterOut (s : State) : Bool := s.ep0.transferOpen && !s.ep0.setup.bmRequestType.getLsbD 7

/-- EP0.OUT after the hook answered (R261). -/
def State.finishOut (s : State) (slot : SlotIx) (o : OutOutcome) : State :=
  (((s.acknowledge o).rearmEp0 slot).setPhase (s.phaseAfterOut o)).setOpen s.openAfterOut

/-- `EP0.OUT(s)` (R261): the payload goes to the hook, whose answer is an input (log 11). -/
def State.ep0Out (s : State) (slot : SlotIx) : Out :=
  withSpan s.cfg (s.slot slot).addr (s.countOf slot).toNat
    (andThen (runCalls s.nextOutAnswer.1.calls s.nextOutAnswer.2) fun t =>
     andThen (t.hookTimer s.nextOutAnswer.1.timer) fun u =>
       .next (u.finishOut slot s.nextOutAnswer.1.outcome))

/-- "`CTL <- 0x01`, clear suspend", performed after every sub-operation (R240). -/
def clearSuspend (o : Out) : Out := andThen o fun s => .next (s.writeCtl 0x01)

/-- The sub-operation the token kind of the completed slot selects (R240). -/
def State.ep0Sub (s : State) (slot : SlotIx) : Out :=
  match classifyTok (s.tokOf slot) with
  | .setup => s.ep0Setup slot
  | .out => s.ep0Out slot
  | .in_ => .next s.ep0In
  | .other => .next s

/-- `EP0.HANDLE(stat)` (R240). -/
def State.ep0Handle (s : State) (stat : Byte) : Out := clearSuspend (s.ep0Sub (statSlot stat))

/-! ## The instructions -/

/-- TOK.SETUP: EP0.SETUP of the completed slot, then the clear-suspend write (R240, R241). -/
def execTokSetup (slot : SlotIx) (s : State) : Out := clearSuspend (s.ep0Setup slot)

/-- TOK.OUT: EP0.OUT, then the clear-suspend write (R240, R261). -/
def execTokOut (slot : SlotIx) (s : State) : Out := clearSuspend (s.ep0Out slot)

/-- EP0.HANDLE (R240). -/
def execEp0Handle (stat : Byte) (s : State) : Out := s.ep0Handle stat

/-- EP0.SETUP (R241). -/
def execEp0Setup (slot : SlotIx) (s : State) : Out := s.ep0Setup slot

/-- EP0.OUT (R261). -/
def execEp0Out (slot : SlotIx) (s : State) : Out := s.ep0Out slot

end Sys2Proof.Machine
end

