-- ==== Sys2Proof/Machine/Irq.lean ====
section
/-! DEFINITION. The interrupt dispatcher (spec/45_dispatcher.md): the six condition handlers, the routing of a
completed transaction, and one step of the loop (60_exceptions.md R351). -/

namespace Sys2Proof.Machine

/-! ## Completions on non-control endpoints (R306 to R308) -/

/-- TXDONE's RELEASE of the packet in the slot: a packet that another slot's completion holds is in two places, a breach
of the ownership invariant (10_state.md R41), and is not released (41_allocator.md R176: "the caller owns `p`"). R306
names no exception: the refusal is DEDUCED (log 16). -/
def State.releaseSent (s : State) (slot : SlotIx) : Out :=
  let p := s.pktOfAddr (s.slot slot).addr
  if p.any (s.pktCompletingElse slot) then .refused .packetBusy else s.release p

/-- `TXDONE(ep, b, s)` (R306). -/
def State.txdone (s : State) (ep : Ep) (b : Bank) (slot : SlotIx) : Out :=
  andThen (s.releaseSent slot) fun t => .next (t.completeTx ep b)

/-- Re-arm the same buffer after a zero-length packet (R307). -/
def State.rearmRx (s : State) (b : Bank) (slot : SlotIx) : State :=
  s.setDesc slot (armedWord (Config.pktCount s.cfg) b.toggle)

/-- The replacement buffer, or the starved endpoint (R308). -/
def State.replaceRx (s : State) (ep : Ep) (b : Bank) (slot : SlotIx) : State :=
  match s.allocate (ep.setWidth 8) with
  | (some i, t) => t.armRx ep b i
  | (none, t) => (t.setDesc slot unarmedWord).setStarved ep true

/-- RXDONE with a byte count above 0 (R308). -/
def State.rxData (s : State) (ep : Ep) (b : Bank) (slot : SlotIx) : Out :=
  match s.pktOfAddr (s.slot slot).addr with
  | none => .refused .completionNotPacket
  | some i =>
    andThen ((s.setPkt i ⟨(s.countOf slot).toNat, 0, (s.pkt i).owner⟩).rxEnqueue ep i) fun t =>
      .next (t.replaceRx ep b slot)

/-- `RXDONE(ep, b, s)` (R307, R308). -/
def State.rxdone (s : State) (ep : Ep) (b : Bank) (slot : SlotIx) : Out :=
  if s.countOf slot = 0 then .next (s.rearmRx b slot) else s.rxData ep b slot

/-! ## Routing (R304) -/

/-- Where the slot's byte count sends a status byte. -/
def State.routeKind (s : State) (stat : Byte) : RouteKind :=
  classifyStat s.cfg (s.countOf (statSlot stat)) stat

/-- `ROUTE(stat)` (R304). -/
def State.route (s : State) (stat : Byte) : Out :=
  if statEp stat = 0 then s.ep0Handle stat
  else if s.cfg.nEp.toNat < (statEp stat).toNat then .next s
  else match statDir stat with
    | .tx => s.txdone (statEp stat) (statBank stat) (statSlot stat)
    | .rx => s.rxdone (statEp stat) (statBank stat) (statSlot stat)

/-! ## The condition handlers (R302, R303, R310 to R313) -/

/-- The reboot countdown (R302). -/
def State.countdown (s : State) : State :=
  if s.ctx.rebootTimer = 0 then s
  else if s.ctx.rebootTimer = 1 then (s.setTimer 0).emit .rebootTrigger
  else s.setTimer (s.ctx.rebootTimer - 1)

/-- `IRQ.SOF` (R302). -/
def State.irqSof (s : State) : Out :=
  andThen (if s.ep0.configuration != 0 then s.countdown.tickHook else .next s) fun t =>
    .next (t.clearIstat 0x04)

/-- `IRQ.TOKDNE` (R303). -/
def State.irqTokdne (s : State) : Out :=
  andThen (s.usedStat.route s.statReg) fun t => .next (t.clearIstat 0x08)

/-- The four slots of endpoint 0 after a bus reset: both receive banks armed DATA0, the transmit banks Unarmed
(R310). -/
def State.resetEp0Slots (s : State) : State :=
  (((s.arm 0 .rx .even (Config.ep0Count s.cfg) .data0 s.cfg.ep0RxAddrEven).arm 0 .rx .odd
    (Config.ep0Count s.cfg) .data0 s.cfg.ep0RxAddrOdd).setDesc (slotOf 0 .tx .even) unarmedWord).setDesc
    (slotOf 0 .tx .odd) unarmedWord

/-- The registers IRQ.RESET writes between its two writes of `CTL`; leftover status entries are discarded (R310
(c); log 36). -/
def State.resetRegs (s : State) : State :=
  let t := ((s.setEndptReg 0 0x0D).clearErrStat 0xFF).clearIstat 0xFF
  { t with regs := { t.regs with statFifo := [], addr := 0, errEn := 0xFF, intEn := 0x9F } }

/-- `IRQ.RESET` (R310). -/
def State.irqReset (s : State) : State :=
  let t := s.writeCtl 0x02
  let u := { t with ep0 := { t.ep0 with txBank := .even } }
  ((u.resetEp0Slots.resetRegs.writeCtl 0x01).setPhase .idle).setOpen false

/-- `IRQ.STALL` (R311). -/
def State.irqStall (s : State) : State := (s.setEndptReg 0 0x0D).clearIstat 0x80

/-- `IRQ.ERROR` (R312). -/
def State.irqError (s : State) : State :=
  State.clearIstat
    (State.clearErrStat { s with ctx := { s.ctx with errSnapshot := s.regs.errStat } } s.regs.errStat) 0x02

/-- `IRQ.SLEEP` (R313). -/
def State.irqSleep (s : State) : State := s.clearIstat 0x10

/-! ## The loop (R300, 60_exceptions.md R351) -/

/-- One ISR step at a point of the loop with the pass's `status`: one condition handled, or the return. -/
def State.isrPass (s : State) (p : IsrPoint) (status : Byte) : Out :=
  let tail := p = .top || p = .afterSof
  if p = .top && status.getLsbD 2 then andThen s.irqSof fun t => .next (t.isrAt .afterSof status)
  else if tail && status.getLsbD 3 then andThen s.irqTokdne fun t => .next (t.isrAt .top 0)
  else if tail && status.getLsbD 0 then .next s.irqReset.leaveIsr
  else if tail && status.getLsbD 7 then .next (s.irqStall.isrAt .afterStall status)
  else if p != .afterError && status.getLsbD 1 then .next (s.irqError.isrAt .afterError status)
  else if status.getLsbD 4 then .next s.irqSleep.leaveIsr
  else .next s.leaveIsr

/-- The `status` of the pass: read at its top, kept to its end (R300). -/
def State.passStatus (s : State) : Byte :=
  match s.ctx.isrPoint with
  | .top => s.istatReg
  | .afterSof => s.ctx.isrStatus
  | .afterStall => s.ctx.isrStatus
  | .afterError => s.ctx.isrStatus

/-- The next ISR step of a run. -/
def State.isrStep (s : State) : Out := s.isrPass s.ctx.isrPoint s.passStatus

/-! ## The instructions -/

/-- IRQ.SOF (R302). -/
def execIrqSof (s : State) : Out := s.irqSof

/-- IRQ.TOKDNE (R303). -/
def execIrqTokdne (s : State) : Out := s.irqTokdne

/-- IRQ.RESET (R310). -/
def execIrqReset (s : State) : Out := .next s.irqReset

/-- IRQ.STALL (R311). -/
def execIrqStall (s : State) : Out := .next s.irqStall

/-- IRQ.ERROR (R312). -/
def execIrqError (s : State) : Out := .next s.irqError

/-- IRQ.SLEEP (R313). -/
def execIrqSleep (s : State) : Out := .next s.irqSleep

/-- IST.RESUME: never tested by the loop; no effect (R314). -/
def execIstResume (s : State) : Out := .next s

/-- IST.ATTACH: never tested by the loop; no effect (R314). -/
def execIstAttach (s : State) : Out := .next s

/-- ROUTE (R304). -/
def execRoute (stat : Byte) (s : State) : Out := s.route stat

/-- TXDONE (R306); an endpoint out of range is ignored (log 37). -/
def execTxdone (ep : Ep) (bank : Bank) (slot : SlotIx) (s : State) : Out :=
  if s.cfg.isEndpoint ep.toNat then s.txdone ep bank slot else .next s

/-- RXDONE (R307, R308); an endpoint out of range is ignored (log 37). -/
def execRxdone (ep : Ep) (bank : Bank) (slot : SlotIx) (s : State) : Out :=
  if s.cfg.isEndpoint ep.toNat then s.rxdone ep bank slot else .next s

/-- ROUTE.EP0 (R304, R240): a status byte of endpoint 0; another has no effect here (log 22). -/
def execRouteEp0 (stat : Byte) (s : State) : Out :=
  match s.routeKind stat with
  | .ep0 => s.ep0Handle stat
  | .txdone => .next s
  | .rxdoneZero => .next s
  | .rxdoneData => .next s
  | .ignore => .next s

/-- ROUTE.TXDONE (R304, R306). -/
def execRouteTxdone (stat : Byte) (s : State) : Out :=
  match s.routeKind stat with
  | .txdone => s.txdone (statEp stat) (statBank stat) (statSlot stat)
  | .ep0 => .next s
  | .rxdoneZero => .next s
  | .rxdoneData => .next s
  | .ignore => .next s

/-- ROUTE.RXDONE.ZERO (R304, R307). -/
def execRouteRxdoneZero (stat : Byte) (s : State) : Out :=
  match s.routeKind stat with
  | .rxdoneZero => .next (s.rearmRx (statBank stat) (statSlot stat))
  | .ep0 => .next s
  | .txdone => .next s
  | .rxdoneData => .next s
  | .ignore => .next s

/-- ROUTE.RXDONE.DATA (R304, R308). -/
def execRouteRxdoneData (stat : Byte) (s : State) : Out :=
  match s.routeKind stat with
  | .rxdoneData => s.rxData (statEp stat) (statBank stat) (statSlot stat)
  | .ep0 => .next s
  | .txdone => .next s
  | .rxdoneZero => .next s
  | .ignore => .next s

/-- ROUTE.IGNORE: an endpoint field above `N_EP` is "guarded and ignored" (R304). -/
def execRouteIgnore (_stat : Byte) (s : State) : Out := .next s

/-- IRQ.ENTRY (R300): take the interrupt and make the run's next ISR step; where the interrupt may not be taken,
nothing happens (60_exceptions.md R346: "at no other time"). -/
def execIrqEntry (s : State) : Out :=
  if s.ctx.inIsr then s.isrStep
  else if s.mayStartIsr then s.enterIsr.isrStep
  else .next s

end Sys2Proof.Machine
end

