-- ==== Sys2Proof/Machine/Dispatch.lean ====
section
/-! DEFINITION. `exec`: one arm for each constructor of `Instr`, each a direct call of the instruction's meaning. -/

namespace Sys2Proof.Machine

/-- The meaning of an instruction. -/
def exec (i : Instr) (s : State) : Host.Outcome State Fault Refusal :=
  match i with
  | .reqGetStatusDev => Sys2Proof.Machine.execReqGetStatusDev s
  | .reqGetStatusEp => Sys2Proof.Machine.execReqGetStatusEp s
  | .reqClearFeatureEp => Sys2Proof.Machine.execReqClearFeatureEp s
  | .reqSetFeatureEp => Sys2Proof.Machine.execReqSetFeatureEp s
  | .reqSetAddress => Sys2Proof.Machine.execReqSetAddress s
  | .reqGetDescriptor bmRequestType => Sys2Proof.Machine.execReqGetDescriptor bmRequestType s
  | .reqGetConfiguration => Sys2Proof.Machine.execReqGetConfiguration s
  | .reqSetConfiguration => Sys2Proof.Machine.execReqSetConfiguration s
  | .reqOther bRequest bmRequestType => Sys2Proof.Machine.execReqOther bRequest bmRequestType s
  | .tokSetup slot => Sys2Proof.Machine.execTokSetup slot s
  | .tokOut slot => Sys2Proof.Machine.execTokOut slot s
  | .tokIn slot => Sys2Proof.Machine.execTokIn slot s
  | .tokOther slot tok => Sys2Proof.Machine.execTokOther slot tok s
  | .irqSof => Sys2Proof.Machine.execIrqSof s
  | .irqTokdne => Sys2Proof.Machine.execIrqTokdne s
  | .irqReset => Sys2Proof.Machine.execIrqReset s
  | .irqStall => Sys2Proof.Machine.execIrqStall s
  | .irqError => Sys2Proof.Machine.execIrqError s
  | .irqSleep => Sys2Proof.Machine.execIrqSleep s
  | .istResume => Sys2Proof.Machine.execIstResume s
  | .istAttach => Sys2Proof.Machine.execIstAttach s
  | .routeEp0 stat => Sys2Proof.Machine.execRouteEp0 stat s
  | .routeTxdone stat => Sys2Proof.Machine.execRouteTxdone stat s
  | .routeRxdoneZero stat => Sys2Proof.Machine.execRouteRxdoneZero stat s
  | .routeRxdoneData stat => Sys2Proof.Machine.execRouteRxdoneData stat s
  | .routeIgnore stat => Sys2Proof.Machine.execRouteIgnore stat s
  | .busInit => Sys2Proof.Machine.execBusInit s
  | .irqEntry => Sys2Proof.Machine.execIrqEntry s
  | .alloc ep => Sys2Proof.Machine.execAlloc ep s
  | .allocSeg ep => Sys2Proof.Machine.execAllocSeg ep s
  | .release pkt => Sys2Proof.Machine.execRelease pkt s
  | .txSubmit ep pkt => Sys2Proof.Machine.execTxSubmit ep pkt s
  | .isoSubmit ep addr n => Sys2Proof.Machine.execIsoSubmit ep addr n s
  | .rxDequeue ep => Sys2Proof.Machine.execRxDequeue ep s
  | .rxBytes ep => Sys2Proof.Machine.execRxBytes ep s
  | .txPkts ep => Sys2Proof.Machine.execTxPkts ep s
  | .rxPkts ep => Sys2Proof.Machine.execRxPkts ep s
  | .csEnter => Sys2Proof.Machine.execCsEnter s
  | .csExit => Sys2Proof.Machine.execCsExit s
  | .ep0Transmit addr n => Sys2Proof.Machine.execEp0Transmit addr n s
  | .setRebootTimer n => Sys2Proof.Machine.execSetRebootTimer n s
  | .bdtWrite ep dir bank n tog addr => Sys2Proof.Machine.execBdtWrite ep dir bank n tog addr s
  | .bdtReadc ep dir bank => Sys2Proof.Machine.execBdtReadc ep dir bank s
  | .linkSetup data => Sys2Proof.Machine.execLinkSetup data s
  | .linkOut ep tog data => Sys2Proof.Machine.execLinkOut ep tog data s
  | .linkIn ep => Sys2Proof.Machine.execLinkIn ep s
  | .linkSof => Sys2Proof.Machine.execLinkSof s
  | .linkReset => Sys2Proof.Machine.execLinkReset s
  | .linkError m => Sys2Proof.Machine.execLinkError m s
  | .linkSleep => Sys2Proof.Machine.execLinkSleep s
  | .linkStalled ep => Sys2Proof.Machine.execLinkStalled ep s
  | .linkNak ep dir => Sys2Proof.Machine.execLinkNak ep dir s
  | .bdtClear => Sys2Proof.Machine.execBdtClear s
  | .linkComplete ep dir => Sys2Proof.Machine.execLinkComplete ep dir s
  | .poolReturn pkt => Sys2Proof.Machine.execPoolReturn pkt s
  | .starvedTarget pkt => Sys2Proof.Machine.execStarvedTarget pkt s
  | .redirect ep pkt => Sys2Proof.Machine.execRedirect ep pkt s
  | .rxqEnqueue ep pkt => Sys2Proof.Machine.execRxqEnqueue ep pkt s
  | .txqAppend ep pkt => Sys2Proof.Machine.execTxqAppend ep pkt s
  | .txqPop ep => Sys2Proof.Machine.execTxqPop ep s
  | .txComplete ep bank => Sys2Proof.Machine.execTxComplete ep bank s
  | .txCompleteTableA st bank => Sys2Proof.Machine.execTxCompleteTableA st bank s
  | .txCompleteTableB st bank => Sys2Proof.Machine.execTxCompleteTableB st bank s
  | .teardownBankMap st => Sys2Proof.Machine.execTeardownBankMap st s
  | .ep0Handle stat => Sys2Proof.Machine.execEp0Handle stat s
  | .ep0Setup slot => Sys2Proof.Machine.execEp0Setup slot s
  | .reqDispatch => Sys2Proof.Machine.execReqDispatch s
  | .ep0Send addr len => Sys2Proof.Machine.execEp0Send addr len s
  | .ep0In slot => Sys2Proof.Machine.execEp0In slot s
  | .ep0Out slot => Sys2Proof.Machine.execEp0Out slot s
  | .ep0Stall => Sys2Proof.Machine.execEp0Stall s
  | .route stat => Sys2Proof.Machine.execRoute stat s
  | .txdone ep bank slot => Sys2Proof.Machine.execTxdone ep bank slot s
  | .rxdone ep bank slot => Sys2Proof.Machine.execRxdone ep bank slot s
  | .descArmed slot count bits => Sys2Proof.Machine.execDescArmed slot count bits s
  | .descCompleted slot count tog tok => Sys2Proof.Machine.execDescCompleted slot count tog tok s
  | .descUnarmed slot => Sys2Proof.Machine.execDescUnarmed slot s

end Sys2Proof.Machine
end

