-- ==== Sys2Proof/Machine/Schedule.lean ====
section
/-! DEFINITION. Which agent steps next (spec/00_scope.md R8, 60_exceptions.md R346, R352; log 6, 7): the
environment's pending items, the frozen foreground, and the interrupt that runs when no item is left; and how a
word of the opcode table is placed where the next step fetches it. -/

namespace Sys2Proof.Machine

/-- The agents (00_scope.md R8). -/
inductive Agent where
  | link | isr | fg
deriving DecidableEq, Repr

/-- Whose step a trace line is: link codes are 0x80 and up (30_encoding.md R118), IRQ.ENTRY is the ISR's (R117),
the other commands are the foreground's. -/
def agentOf (i : List Byte) : Agent :=
  match i with
  | [] => .fg
  | code :: _ => if code.getLsbD 7 then .link else if code = 0x02 then .isr else .fg

/-- The pending items become `l`. -/
def State.setTrace (s : State) (l : List Input) : State := { s with env := { s.env with trace := l } }

/-- FG takes its step, unless the handler runs: "FG takes no step from the moment it starts until it returns"
(60_exceptions.md R346); then the ISR steps and the item stays. -/
def foreground (s : State) (own : Out) : Out := if s.ctx.inIsr then s.isrStep else own

/-- The step of a decoded line: FG's waits for the handler, the other agents' do not. -/
def lineStep (a : Agent) (i : Instr) (rest : List Input) (s : State) : Out :=
  match a with
  | .fg => foreground s (exec i (s.setTrace rest))
  | .isr => exec i (s.setTrace rest)
  | .link => exec i (s.setTrace rest)

/-- Whose step a bare descriptor word is, which the spec does not say: the armed and the unarmed form are software's
(40_bdt_link.md R143: "The link never arms a slot and software never completes one"), FG's here, the completed form
the link's. DESIGN CHOICE (log 7, 21). -/
def agentOfWord (w : Word) : Agent :=
  match classifyDesc w with
  | .armed => .fg
  | .unarmed => .fg
  | .completed => .link

/-- The step of the oldest pending item. A line that spells no operation is rejected and the machine goes on
(30_encoding.md R119 (g), 93 U11: "None is `refuse`"): the item is dropped, in any context, and nothing else changes
(log 9). Software's descriptor word waits while the handler runs, as every step of
FG does (60_exceptions.md R346); the link's does not. That a bare word is such a step is the model's choice
(log 7, 21). -/
def itemStep (x : Input) (rest : List Input) (s : State) : Out :=
  match x with
  | .line bytes =>
    match decodeLine s.cfg bytes with
    | .ok i => lineStep (agentOf bytes) i rest s
    | .error _ => .next (s.setTrace rest)
  | .descWord slot w =>
    lineStep (agentOfWord w) (decodeDesc slot w) rest s
  | .app a => foreground s (appStep a (s.setTrace rest))

/-- One step: the oldest pending item, else the interrupt if it runs or may start, else nothing. -/
def agentStep (s : State) : Out :=
  match s.env.trace with
  | x :: rest => itemStep x rest s
  | [] => execIrqEntry s

/-! ## Placing a word (log 23) -/

/-- The handler stands in a pass whose `status` was `v`, at point `p`, with no pending items. -/
def State.inPass (s : State) (p : IsrPoint) (v : Byte) : State :=
  ({ s with ctx := { s.ctx with inIsr := true } }.isrAt p v).setTrace []

/-- The next ISR step handles the completion `st`: it is the oldest entry of `stat_fifo`. -/
def State.withStat (s : State) (st : Byte) : State :=
  State.inPass { s with regs := { s.regs with statFifo := [st] } } .afterSof 0x08

/-- A completion with token kind `tok` and `n` bytes stands in slot 0, at endpoint 0's EVEN receive buffer. -/
def State.withTok (s : State) (n : BitVec 10) (tok : BitVec 4) : State :=
  (s.setSlot 0 ⟨completedWord n .data0 tok, s.cfg.ep0RxAddrEven⟩).withStat 0x00

/-- A SETUP packet with this request code, its other fields zero, has completed. -/
def State.withRequest (s : State) (code : BitVec 16) : State :=
  (s.store s.cfg.ep0RxAddrEven (toBytes16 code ++ [0, 0, 0, 0, 0, 0])).withTok 8 tokSETUP

/-- Endpoint 0 is enabled and its slot `k` armed at its EVEN receive buffer, so that the link can complete it. -/
def State.withArmed (s : State) (k : SlotIx) (n : BitVec 10) (t : Toggle) : State :=
  (s.setEndptReg 0 0x0D).setSlot k ⟨armedWord n t, s.cfg.ep0RxAddrEven⟩

/-- A descriptor word is the next item; a completed form finds its slot in the link's hands, armed with the count and
toggle of the word. -/
def State.withDesc (s : State) (w : Word) : State :=
  match classifyDesc w with
  | .completed => (s.withArmed (placeOfDesc w) (descCount w) (descTog w)).setTrace [.descWord (placeOfDesc w) w]
  | .armed => s.setTrace [.descWord (placeOfDesc w) w]
  | .unarmed => s.setTrace [.descWord (placeOfDesc w) w]

/-- A byte stands where the block finds it. -/
def State.withByte (s : State) (b : Byte) : State :=
  match placeOfByte s.cfg b with
  | .trace line => s.setTrace [.line line]
  | .istat v => State.inPass { s with regs := { s.regs with
      istat := v &&& 0xF7, statFifo := if v.getLsbD 3 then [0x00] else [] } } .top 0
  | .tok t => s.withTok 0 t
  | .stat st => s.withStat st

end Sys2Proof.Machine
end

