-- ==== Sys2Proof/Machine/Step.lean ====
section
/-! DEFINITION. One step of the machine, and the placing of a word of the opcode table where the next step
fetches it. -/

namespace Sys2Proof.Machine

/-- One step (spec/30_encoding.md R122: "One step per line"; log 6). -/
def step (s : State) : Host.Outcome State Fault Refusal := agentStep s

/-- `s` with the table word `w` of `nbits` bits placed so that the next step runs it (log 23). -/
def State.withFetchWord (s : State) (nbits w : Nat) : State :=
  if nbits = 16 then s.withRequest (BitVec.ofNat 16 w)
  else if nbits = 32 then s.withDesc (BitVec.ofNat 32 w)
  else s.withByte (BitVec.ofNat 8 w)

end Sys2Proof.Machine
end

