-- ==== Sys2Proof/Safety.lean ====
section
/-! DEFINITION. The terms claims are stated in: what a step leaves unchanged (frames), who holds a packet, and
the invariants of the machine. -/

namespace Sys2Proof.Machine

/-! ## Frames -/

/-- Every byte of memory reads as before. -/
def SameBytes (s t : State) : Prop := ∀ a : Word, t.byte a = s.byte a

/-- Every byte outside the `n` bytes from `a` on reads as before. -/
def SameBytesOutside (a : Word) (n : Nat) (s t : State) : Prop :=
  ∀ b : Word, (b.toNat < a.toNat ∨ a.toNat + n ≤ b.toNat) → t.byte b = s.byte b

/-- The `n` bytes from `a` on read as `bs`. -/
def HoldsBytes (t : State) (a : Word) (bs : List Byte) : Prop :=
  ∀ k, k < bs.length → t.byte (a + BitVec.ofNat 32 k) = bs.getD k 0

/-- Every slot but those listed is as before. -/
def SameSlotsBut (ks : List SlotIx) (s t : State) : Prop := ∀ k, k ∉ ks → t.slot k = s.slot k

/-- Every endpoint-control register but those listed is as before. -/
def SameEndptBut (es : List Ep) (s t : State) : Prop := ∀ e, e ∉ es → t.endptReg e = s.endptReg e

/-- Every endpoint record but those listed is as before. -/
def SameEndpointsBut (es : List Ep) (s t : State) : Prop := ∀ e, e ∉ es → t.endpoint e = s.endpoint e

/-- Every packet header but those listed is as before. -/
def SameHeadersBut (is : List Nat) (s t : State) : Prop := ∀ i, i ∉ is → t.pkt i = s.pkt i

/-- Every bank pointer of the link but one is as before. -/
def SameBanksBut (ep : Ep) (d : Dir) (s t : State) : Prop :=
  ∀ e g, ¬(e = ep ∧ g = d) → t.bankOf e g = s.bankOf e g

/-- One endpoint-0 packet of `n` bytes at `a` is armed: the slot of the current bank with the current toggle,
both then flipped, and no other slot (spec/44_control_transfer.md R256). -/
def ArmedOne (s t : State) (a : Word) (n : Nat) : Prop :=
  t.slot (slotOf 0 .tx s.ep0.txBank) = ⟨armedWord (BitVec.ofNat 10 n) s.ep0.txToggle, a⟩ ∧
  SameSlotsBut [slotOf 0 .tx s.ep0.txBank] s t ∧
  t.ep0 = { s.ep0 with txToggle := s.ep0.txToggle.flip, txBank := s.ep0.txBank.flip }

/-- The link may complete a token on endpoint `ep`: enabled, not suspended, no bus reset pending, room in
`stat_fifo`, the endpoint exists and is not stalled (spec/40_bdt_link.md R144). -/
def TokenOpen (s : State) (ep : Byte) : Prop :=
  s.regs.ctlEnable = true ∧ s.regs.suspended = false ∧ s.regs.istat.getLsbD 0 = false ∧
  s.regs.statFifo.length < s.cfg.statDepth ∧ ep.toNat ≤ s.cfg.nEp.toNat ∧
  epcStall (s.endptReg (ep.setWidth 4)) = false

/-- No token reaches endpoint `ep`: disabled module, suspended, reset pending, `stat_fifo` full, or no such
endpoint (spec/40_bdt_link.md R144). -/
def TokenClosed (s : State) (ep : Byte) : Prop :=
  s.regs.ctlEnable = false ∨ s.regs.suspended = true ∨ s.regs.istat.getLsbD 0 = true ∨
  s.cfg.statDepth ≤ s.regs.statFifo.length ∨ s.cfg.nEp.toNat < ep.toNat

/-- The `n` bytes at `a` are inside the address space and apart from the table (spec/20_memory.md R70). -/
def Reachable (c : Config) (a : Word) (n : Nat) : Prop :=
  a.toNat + n ≤ 2 ^ 32 ∧ spansApart (a.toNat, n) (c.bdtBase.toNat, c.bdtBytes) = true

/-- The link may store `n` bytes at `a`: reachable, and not in the descriptor store, which it only reads
(spec/20_memory.md R70). -/
def Storable (s : State) (a : Word) (n : Nat) : Prop := Reachable s.cfg a n ∧ s.storeApart a n = true

/-- A byte of the descriptor store (spec/20_memory.md R70). -/
def InStore (s : State) (a : Word) : Prop := ∃ r ∈ s.storeSpans, r.1 ≤ a.toNat ∧ a.toNat < r.1 + r.2

/-- What `complete(ep, dir)` leaves (spec/40_bdt_link.md R149): the status byte of the slot just completed is
queued, `tokdne` reads 1, the bank pointer is flipped. -/
def Completed (s t : State) (ep : Ep) (d : Dir) : Prop :=
  t.regs.statFifo = s.regs.statFifo ++ [statOf ep d (s.bankOf ep d)] ∧ t.istatReg.getLsbD 3 = true ∧
  t.bankOf ep d = (s.bankOf ep d).flip ∧ SameBanksBut ep d s t

/-- The slot the link uses for a token (spec/40_bdt_link.md R145). -/
def linkSlot (s : State) (ep : Ep) (d : Dir) : SlotIx := slotOf ep d (s.bankOf ep d)

/-- The clear-suspend write `CTL <- 0x01` of EP0.HANDLE's last line (spec/44_control_transfer.md R240). -/
def resumed (s : State) : State :=
  { s with regs := { s.regs with ctlEnable := true, ctlOddrst := false, suspended := false } }

/-- Stall0: `ENDPT[0] <- 0x0F` and nothing else (spec/44_control_transfer.md R262). -/
def stalledEp0 (s : State) : State := { s with regs := { s.regs with endpt := s.regs.endpt.set 0 0x0F } }

/-! ## The receive buffers of SET_CONFIGURATION (spec/44_control_transfer.md R247, step 3) -/

/-- The receive banks provisioned, in order: EVEN then ODD of each endpoint whose `EP_CONFIG` has `rxen`. -/
def Config.rxRequests (c : Config) : List (Ep × Bank) :=
  (c.endpoints.filter fun e => epcRxen (c.epConfig.get e)).flatMap fun e => [(e, .even), (e, .odd)]

/-- ALLOC for each bank in turn: what each got, and the state after. -/
def allocEach : List (Ep × Bank) → State → List ((Ep × Bank) × Option Nat) × State
  | [], s => ([], s)
  | r :: rs, s =>
    ((r, (s.allocate (r.1.setWidth 8)).1) :: (allocEach rs (s.allocate (r.1.setWidth 8)).2).1,
      (allocEach rs (s.allocate (r.1.setWidth 8)).2).2)

/-! ## Class hooks (spec/44_control_transfer.md R254) -/

/-- A hook is asked: its answer is taken, its calls run, its timer value is set. -/
def askHook (a : ClassAnswer) (s : State) : Out :=
  andThen (runCalls a.calls s.nextClassAnswer.2) fun t => t.hookTimer a.timer

/-! ## Submits and completions in sequence (spec/43_bank_allocator.md R217) -/

/-- The packets of a list are submitted to an endpoint in order. -/
def submitAll (s : State) (ep : Ep) (ps : List Nat) : State := ps.foldl (fun t p => t.submit ep p) s

/-- `n` completions, the link alternating banks from `b` on. -/
def completeMany (ep : Ep) : Nat → Bank → State → State
  | 0, _, s => s
  | n + 1, b, s => completeMany ep n b.flip (s.completeTx ep b)

/-! ## Who holds a packet (spec/10_state.md R41) -/

/-- The packets bound to Armed slots of the non-control endpoints. -/
def State.boundPackets (s : State) : List Nat :=
  (Config.dataSlots s.cfg).filterMap fun k =>
    if descOwn (s.slot k).desc then s.pktOfAddr (s.slot k).addr else none

/-- The packets in queues. -/
def State.queuedPackets (s : State) : List Nat :=
  s.cfg.endpoints.flatMap fun e => (s.endpoint e).rxq ++ (s.endpoint e).txq

/-- The packets SET_CONFIGURATION returns, in its order (spec/44_control_transfer.md R247, steps 1 and 2). -/
def State.tornPackets (s : State) : List Nat := s.boundPackets ++ s.queuedPackets

/-- The teardown meets every packet once, and none is free. -/
def State.teardownReady (s : State) : Prop :=
  s.tornPackets.Nodup ∧ ∀ i ∈ s.tornPackets, i < s.cfg.numBuffers ∧ s.pktFree i = false

/-- The state whose pool holds the torn-down packets again. -/
def State.poolReturned (s : State) : State := s.tornPackets.foldl State.poolPut s

/-- The free structure is one the allocator builds: under SharedBitmap at most 32 packets; under Segregated every
packet has an owner, and each free list holds packets of its own endpoint, none twice (spec/00_scope.md R5,
41_allocator.md R173). -/
def State.poolSound (s : State) : Prop :=
  match s.cfg.allocStrategy with
  | .sharedBitmap => s.cfg.numBuffers ≤ 32
  | .segregated =>
      (∀ i, i < s.cfg.numBuffers → 1 ≤ (s.pkt i).owner ∧ (s.pkt i).owner ≤ s.cfg.nEp.toNat) ∧
      ∀ e ∈ s.cfg.endpoints, (s.pool.freeList.get e).Nodup ∧
        ∀ i ∈ s.pool.freeList.get e, i < s.cfg.numBuffers ∧ (s.pkt i).owner = e.toNat

/-! ## Invariants -/

/-- A descriptor word of one of the three forms, its reserved bits 0 (spec/30_encoding.md R102 to R104). -/
def IsDescWord (d : Word) : Prop :=
  d = unarmedWord ∨ (∃ n t f, d = armedForm n t f) ∨ ∃ n t k, d = completedWord n t k

/-- A descriptor word a rule writes: of the armed forms only `DESC(n, t)`, with `keep`, `ninc` and `stall` 0 and `dts`
1 (spec/30_encoding.md R102). -/
def IsRuleWord (d : Word) : Prop :=
  d = unarmedWord ∨ (∃ n t, d = armedWord n t) ∨ ∃ n t k, d = completedWord n t k

/-- Both banks are the link's. -/
def TxState.noneFree : TxState → Bool
  | .bothFreeEvenFirst => false
  | .bothFreeOddFirst => false
  | .evenFree => false
  | .oddFree => false
  | .noneFreeEvenFirst => true
  | .noneFreeOddFirst => true

/-- Neither bank is the link's. -/
def TxState.bothFree : TxState → Bool
  | .bothFreeEvenFirst => true
  | .bothFreeOddFirst => true
  | .evenFree => false
  | .oddFree => false
  | .noneFreeEvenFirst => false
  | .noneFreeOddFirst => false

/-- A packet waits to be sent only while no bank is free (spec/43_bank_allocator.md R216 (a)). -/
def Endpoint.txOk (e : Endpoint) : Prop := e.txq = [] ∨ TxState.noneFree e.txState = true

/-- A status byte the link can push: a slot of the table, shifted left by two (spec/40_bdt_link.md R149). -/
def IsStat (c : Config) (st : Byte) : Prop :=
  ∃ ep d b, st = statOf ep d b ∧ ep.toNat ≤ c.nEp.toNat

/-- Memory is in its canonical form. -/
def State.memCanonical (s : State) : Prop := memWf s.mem = true

/-- Every slot's `desc` has one of the three forms (spec/40_bdt_link.md R143). -/
def State.descForms (s : State) : Prop := ∀ k, IsDescWord (s.slot k).desc

/-- Every slot's `desc` is a word a rule writes (spec/30_encoding.md R102). -/
def State.ruleForms (s : State) : Prop := ∀ k, IsRuleWord (s.slot k).desc

/-- The next item is no armed word with `keep`, `ninc`, `dts`, `stall` other than a rule's. -/
def State.plainItem (s : State) : Prop :=
  ∀ k w rest, s.env.trace = .descWord k w :: rest → classifyDesc w = .armed → descFlags w = 0b0010

/-- Every endpoint's transmit queue is empty or no bank is free. -/
def State.txQueuesOk (s : State) : Prop := ∀ e, (s.endpoint e).txOk

/-- The status queue holds at most `STAT_DEPTH` bytes, each naming a slot (spec/10_state.md R32). -/
def State.statQueueOk (s : State) : Prop :=
  s.regs.statFifo.length ≤ s.cfg.statDepth ∧ ∀ st ∈ s.regs.statFifo, IsStat s.cfg st

/-- The reserved bits of every `ENDPT` read 0, and `ISTAT`'s `resume` and `attach` are never set by any agent of
the block (spec/30_encoding.md R107, 45_dispatcher.md R314). -/
def State.reservedOk (s : State) : Prop :=
  (∀ e, s.endptReg e &&& 0xE0 = 0) ∧ s.regs.istat &&& 0x68 = 0

/-- The reboot timer is within `TIMER_MAX` (spec/10_state.md R54). -/
def State.timerOk (s : State) : Prop := s.ctx.rebootTimer ≤ s.cfg.timerMax

end Sys2Proof.Machine
end

