-- ==== Sys2Proof/Certificates/Slice0/Obligations.lean ====
section
/-! DEFINITION. The statements for the provers, one `def Obligations.<Name> : Prop` each. A frame is said twice
over: `t = { s with ... }` names every field of the state that may differ, and the `Same...But` predicates of
Sys2Proof/Safety.lean say which cells of those fields are unchanged. -/

section
open Sys2Proof Sys2Proof.Machine

/-! ## The step -/

/-- "One step per line" (30_encoding.md R122): the step of the oldest pending line is `exec` of the decoded
instruction, with the line removed; FG "takes no step from the moment it starts until it returns"
(60_exceptions.md R346), so a foreground line waits while the handler steps; a line that spells no operation
is rejected and the machine goes on (R119 (g), 93_implementation_defined.md U11): the line is removed and nothing else
changes. The schedule itself and that a rejected line is dropped in any context are the model's choice (log 6, 7, 9). -/
def Obligations.StepRunsDecodedLine : Prop :=
  ∀ (s : State) (bytes : List Byte) (rest : List Input), s.env.trace = .line bytes :: rest →
    (∀ i, decodeLine s.cfg bytes = .ok i →
      (agentOf bytes ≠ .fg ∨ s.ctx.inIsr = false → step s = exec i (s.setTrace rest)) ∧
      (agentOf bytes = .fg ∧ s.ctx.inIsr = true → step s = s.isrStep)) ∧
    (∀ e, decodeLine s.cfg bytes = .error e → step s = .next (s.setTrace rest))

/-- The other items. A descriptor word written to a slot runs its form's instruction; a bare word has no agent in the
spec: software's forms are FG's here and wait while the handler runs, the completed form is the link's (log 7, 21, the
model's choice). An application's write is FG's too (log 10). With nothing pending the step is that of the interrupt
(60_exceptions.md R346; the schedule: log 6). -/
def Obligations.StepRunsDescriptorWord : Prop :=
  (∀ (s : State) (k : SlotIx) (w : Word) (rest : List Input), s.env.trace = .descWord k w :: rest →
    (classifyDesc w = .completed ∨ s.ctx.inIsr = false → step s = exec (decodeDesc k w) (s.setTrace rest)) ∧
    (classifyDesc w ≠ .completed → s.ctx.inIsr = true → step s = s.isrStep)) ∧
  (∀ (s : State) (a : AppAct) (rest : List Input), s.env.trace = .app a :: rest →
    (s.ctx.inIsr = false → step s = appStep a (s.setTrace rest)) ∧
    (s.ctx.inIsr = true → step s = s.isrStep)) ∧
  (∀ s : State, s.env.trace = [] → step s = exec .irqEntry s)

/-- One ISR step handles the first condition of the pass's `status` in the order of 45_dispatcher.md R300, the handler
being `exec` of the condition decoded; token done goes back to the top, bus reset, sleep and an unhandled or empty rest
end the run. The `status` is read at the top of the pass and kept to its end: after start of frame the rest is the other
conditions, after stall error and sleep, after error sleep. That the place in the pass (`isrPoint`) and the value
(`isrStatus`) are kept between steps, one step handles one condition, and a pass that handles nothing returns in that
same step is the model's choice (log 8). -/
def Obligations.IsrStepHandlesFirstCondition : Prop :=
  ∀ (s : State) (v w : Byte),
    (s.ctx.isrPoint = .top ∧ v = s.istatReg ∧ w = v ∨
      s.ctx.isrPoint = .afterSof ∧ v = s.ctx.isrStatus ∧ w = v &&& 0xFB ∨
      s.ctx.isrPoint = .afterStall ∧ v = s.ctx.isrStatus ∧ w = v &&& 0x12 ∨
      s.ctx.isrPoint = .afterError ∧ v = s.ctx.isrStatus ∧ w = v &&& 0x10) →
    (decodeIst w = some .irqSof → s.isrStep = andThen (exec .irqSof s) fun t => .next (t.isrAt .afterSof v)) ∧
    (decodeIst w = some .irqTokdne → s.isrStep = andThen (exec .irqTokdne s) fun t => .next (t.isrAt .top 0)) ∧
    (decodeIst w = some .irqReset → s.isrStep = andThen (exec .irqReset s) fun t => .next t.leaveIsr) ∧
    (decodeIst w = some .irqStall →
      s.isrStep = andThen (exec .irqStall s) fun t => .next (t.isrAt .afterStall v)) ∧
    (decodeIst w = some .irqError →
      s.isrStep = andThen (exec .irqError s) fun t => .next (t.isrAt .afterError v)) ∧
    (decodeIst w = some .irqSleep → s.isrStep = andThen (exec .irqSleep s) fun t => .next t.leaveIsr) ∧
    (decodeIst w = some .istResume ∨ decodeIst w = some .istAttach ∨ decodeIst w = none →
      s.isrStep = .next s.leaveIsr)

/-- IRQ.TOKDNE routes the oldest entry of `stat_fifo` and pops it (45_dispatcher.md R303); ROUTE is the
instruction decoded from the status byte and the byte count of its slot (R304); EP0.HANDLE is the one decoded
from the slot's token kind (44_control_transfer.md R240). -/
def Obligations.RoutingRunsDecodedInstruction : Prop :=
  (∀ (s : State) (st : Byte) (rest : List Byte), s.regs.statFifo = st :: rest →
    exec .irqTokdne s = andThen (exec (.route st) s) fun t => .next (t.clearIstat 0x08)) ∧
  (∀ (s : State) (st : Byte),
    exec (.route st) s = exec (decodeStat s.cfg (s.countOf (statSlot st)) st) s) ∧
  (∀ (s : State) (st : Byte),
    exec (.ep0Handle st) s = exec (decodeTok (statSlot st) (s.tokOf (statSlot st))) s)

/-- REQ.DISPATCH runs the one row the 16-bit code selects (44_control_transfer.md R243), then sets the phase: Idle
after Stall0, which writes `ENDPT[0]` = 0x0F (R262); StatusStage where `wLength` = 0, else DataStage, after a request
that was served. Stall0 also ends the transfer in the model's own record (log 18). -/
def Obligations.DispatchRunsDecodedRequest : Prop :=
  ∀ (s : State) (i : Instr), i = decodeReq s.cfg (s.ep0.setup.bRequest ++ s.ep0.setup.bmRequestType) →
    (∀ t, exec i s = .next t → s.runRequest = .served t ∨ s.runRequest = .stalled t) ∧
    (∀ t, s.runRequest = .stalled t → exec i s = .next t ∧ t.endptReg 0 = 0x0F ∧
      exec .reqDispatch s = .next { t with ep0 := { t.ep0 with phase := .idle, transferOpen := false } }) ∧
    (∀ t, s.runRequest = .served t → exec i s = .next t ∧
      exec .reqDispatch s = .next { t with ep0 := { t.ep0 with
        phase := if s.ep0.setup.wLength = 0 then .statusStage else .dataStage } }) ∧
    (∀ f, exec i s = .fault f → exec .reqDispatch s = .fault f) ∧
    (∀ r, exec i s = .refused r → exec .reqDispatch s = .refused r)

/-! ## Encodings -/

/-- A few words written out from the tables of 30_encoding.md decode to the instruction they stand for; a reserved bit
of a descriptor word is ignored (R119 (e)). The code bytes are R117's and R118's; the layout of the operand bytes after
them is the model's choice (log 9). -/
def Obligations.SpecWordsDecode : Prop :=
  decodeLine Config.default [0x01] = .ok .busInit ∧
  decodeLine Config.default [0x20, 0x02, 0x03, 0x00] = .ok (.txSubmit 2 3) ∧
  decodeLine Config.default [0x81, 0x03, 0x01, 0x02, 0x00, 0x41, 0x42] = .ok (.linkOut 3 .data1 [0x41, 0x42]) ∧
  decodeLine Config.default [0x61, 0x03, 0x00, 0x01] = .ok (.bdtReadc 3 .rx .odd) ∧
  decodeLine Config.default [0x7F] = .error (.unknownCode 0x7F) ∧
  decodeReq Config.default 0x0680 = .reqGetDescriptor 0x80 ∧
  decodeReq Config.default 0x0900 = .reqSetConfiguration ∧
  decodeReq Config.default 0x0682 = .reqOther 0x06 0x82 ∧
  decodeTok 0 0xD = .tokSetup 0 ∧
  decodeIst 0x0C = some .irqSof ∧
  decodeStat Config.default 0 0x28 = .routeTxdone 0x28 ∧
  decodeStat Config.default 5 0x34 = .routeRxdoneData 0x34 ∧
  decodeStat Config.default 0 0x70 = .routeIgnore 0x70 ∧
  decodeDesc 13 0x004000C8 = .descArmed 13 64 ⟨.data1, 0b0010⟩ ∧
  decodeDesc 13 0x0840FFCB = .descArmed 13 64 ⟨.data1, 0b0010⟩ ∧
  decodeDesc 2 0x00120064 = .descCompleted 2 18 .data1 0x9 ∧
  decodeDesc 0 0x00000000 = .descUnarmed 0

/-- Decode of encode: every well-formed command and link event, with every operand at every value its encoding
admits, is read back from its trace line (30_encoding.md R117, R118; the layout of the operands: log 9). -/
def Obligations.TraceDecodesEncoding : Prop :=
  ∀ (c : Config) (i : Instr), WellFormed c i = true → ((encode i).1 = .cmd8 ∨ (encode i).1 = .link8) →
    decodeLine c (encode i).2 = .ok i

/-- Encode of decode: a trace line that decodes spells a well-formed instruction, and is that instruction's encoding.
So no two lines spell one operation and no bit of a line is dropped, which is the model's choice (log 9): the rules
give the codes (30_encoding.md R117 to R119), the model the layout of the operands and that a one-bit operand above 1,
a count above 1023 and trailing bytes are rejected. -/
def Obligations.TraceLineIsEncoding : Prop :=
  ∀ (c : Config) (bytes : List Byte) (i : Instr), decodeLine c bytes = .ok i →
    WellFormed c i = true ∧ (encode i).2 = bytes

/-- The other formats' words are read back: request codes, token kinds, one-hot conditions, status bytes by the
byte count of their slot, descriptor words (30_encoding.md R102 to R106, R114, R115). -/
def Obligations.WordDecodesEncoding : Prop :=
  ∀ (c : Config) (i : Instr), WellFormed c i = true →
    ((encode i).1 = .req16 → decodeReq c (ofBytes16 ((encode i).2.getD 0 0) ((encode i).2.getD 1 0)) = i) ∧
    ((encode i).1 = .istat8 → decodeIst ((encode i).2.getD 0 0) = some i) ∧
    ((encode i).1 = .tok4 → ∃ k, decodeTok k (((encode i).2.getD 0 0).setWidth 4) = i) ∧
    ((encode i).1 = .stat8 → ∃ n, decodeStat c n ((encode i).2.getD 0 0) = i) ∧
    ((encode i).1 = .desc32 → ∃ k, decodeDesc k (ofBytes32 ((encode i).2.getD 0 0) ((encode i).2.getD 1 0)
      ((encode i).2.getD 2 0) ((encode i).2.getD 3 0)) = i)

/-! ## Invariants -/

/-- The state after reset meets every invariant below. That state is the model's choice, the one BUS.INIT leaves
(70_reset_and_hazards.md R381; log 4), and so is the form of its memory, a list that holds no byte yet (log 5). -/
def Obligations.ResetMeetsInvariants : Prop :=
  State.reset.memCanonical ∧ State.reset.descForms ∧ State.reset.ruleForms ∧
  State.reset.txQueuesOk ∧ State.reset.statQueueOk ∧ State.reset.reservedOk ∧ State.reset.timerOk

/-- Memory stays in its canonical form, sorted and without an entry an unlisted byte reads as: the model's own
representation of the flat byte space of 20_memory.md R70 (log 5, the model's choice), in which equal memories are
equal data. -/
def Obligations.StepKeepsMemoryCanonical : Prop :=
  ∀ s t : State, s.memCanonical → step s = .next t → t.memCanonical

/-- "Every slot is at every moment in one of three states, read off its `desc` word" (40_bdt_link.md R143): each
`desc` stays an armed, a completed or the unarmed word, its reserved bits 0 (30_encoding.md R102 to R104). Of the armed
words only `DESC(n, t)` is written by a rule: a slot holds another only where a caller from outside wrote one
(log 21). -/
def Obligations.StepKeepsDescriptorForms : Prop :=
  (∀ s t : State, s.descForms → step s = .next t → t.descForms) ∧
  (∀ s t : State, s.ruleForms → s.plainItem → step s = .next t → t.ruleForms)

/-- "`txq[ep]` non-empty implies `tx_state[ep]` is NoneFreeEvenFirst or NoneFreeOddFirst" (43_bank_allocator.md
R216 (a)), kept by every step. -/
def Obligations.StepKeepsTransmitQueueRule : Prop :=
  ∀ s t : State, s.txQueuesOk → step s = .next t → t.txQueuesOk

/-- `stat_fifo` holds at most `STAT_DEPTH` bytes (10_state.md R32), each of them the status byte of a slot of
the table (40_bdt_link.md R149). -/
def Obligations.StepKeepsStatusQueue : Prop :=
  ∀ s t : State, s.statQueueOk → step s = .next t → t.statQueueOk

/-- The reserved bits of every `ENDPT` stay 0 (30_encoding.md R107), and no step sets `resume` or `attach`
(45_dispatcher.md R314); the token-done flag is never stored (log 13). -/
def Obligations.StepKeepsReservedBits : Prop :=
  ∀ s t : State, s.reservedOk → step s = .next t → t.reservedOk

/-- `reboot_timer` stays within `TIMER_MAX` (10_state.md R54), and the parameters never change (00_scope.md R5:
"a field of the configuration record"; log 1). -/
def Obligations.StepKeepsTimerBoundAndParameters : Prop :=
  ∀ s t : State, step s = .next t → t.cfg = s.cfg ∧ (s.timerOk → t.timerOk)

/-- "What the link never does" (40_bdt_link.md R156, which the spec marks as derived from R144 to R155, so that this
statement is derived too), for every link event; the descriptor store is "read-only for the block and for the link"
(20_memory.md R70). The last clause says that it never reads the block's own elements either: whatever packet headers,
queues, endpoint records, control-transfer context and timers there are, the event does the same to the rest. -/
def Obligations.LinkTouchesNothingElse : Prop :=
  ∀ (i : Instr) (s t : State), (encode i).1 = .link8 → exec i s = .next t →
    t = { s with regs := t.regs, bdt := t.bdt, hwBank := t.hwBank, mem := t.mem, env := t.env } ∧
    t.regs.endpt = s.regs.endpt ∧ t.regs.addr = s.regs.addr ∧ t.regs.intEn = s.regs.intEn ∧
    t.regs.bdtPage = s.regs.bdtPage ∧
    (∀ k, (t.slot k).addr = (s.slot k).addr) ∧
    (∀ k, descOwn (t.slot k).desc = true → descOwn (s.slot k).desc = true) ∧
    (∀ k, descOwn (s.slot k).desc = false → t.slot k = s.slot k) ∧
    s.istatReg &&& t.istatReg = s.istatReg ∧ s.regs.errStat &&& t.regs.errStat = s.regs.errStat ∧
    ((∀ data, i ≠ .linkSetup data) ∧ (∀ ep tog data, i ≠ .linkOut ep tog data) ∨
      t.regs.statFifo = s.regs.statFifo → SameBytes s t) ∧
    (s.memCanonical → ∀ a : Word, InStore s a → t.byte a = s.byte a) ∧
    (∀ u : State, u = { s with pool := u.pool, eps := u.eps, ep0 := u.ep0, ctx := u.ctx } →
      exec i u = .next { t with pool := u.pool, eps := u.eps, ep0 := u.ep0, ctx := u.ctx })

/-! ## Initialisation, critical section, timer -/

/-- BUS.INIT, outside a critical section and the handler and with `BDT_BASE` aligned, leaves every element at the
value of 45_dispatcher.md R316; `setup`, the buffers and the packets' contents are not written. The free
structure is the one of 41_allocator.md R171, R173; that under Segregated the pools take the packets in ascending order
(`initFreeList`) is the model's reading (log 32). The clauses on `discipline` and `transferOpen` are about the model's
own records, no rule's (log 17, 18). -/
def Obligations.BusInitResult : Prop :=
  ∀ s : State, s.ctx.irqMask = false → s.ctx.inIsr = false → s.cfg.bdtBase.toNat % s.cfg.bdtAlign = 0 →
    ∃ t, exec .busInit s = .next t ∧
      (∀ k, t.slot k = ⟨0, 0⟩) ∧ t.regs.bdtPage = s.cfg.bdtBase ∧ (∀ e, t.endptReg e = 0) ∧ t.regs.addr = 0 ∧
      t.regs.errEn = 0 ∧ t.istatReg = 0 ∧ t.regs.errStat = 0 ∧ t.regs.otgIstat = 0 ∧ t.regs.statFifo = [] ∧
      t.regs.suspended = false ∧ (∀ e d, t.bankOf e d = .even) ∧
      t.pool.freeMap = initFreeMap s.cfg ∧ t.pool.freeList = initFreeList s.cfg ∧
      (∀ e, t.endpoint e = ⟨[], 0, [], .bothFreeEvenFirst, 0, .even, false, .unused⟩) ∧
      t.ep0 = { s.ep0 with
        txPtr := none, txLen := 0, txToggle := .data0, txBank := .even, configuration := 0,
        addrPending := false, addrLatch := 0, phase := .idle, transferOpen := false } ∧
      t.ctx.rebootTimer = 0 ∧ t.ctx.errSnapshot = 0 ∧ t.ctx.irqMask = false ∧ t.ctx.inIsr = false ∧
      t.ctlReg = 0x01 ∧ t.regs.intEn = 0x01 ∧
      t.cfg = s.cfg ∧ t.env = s.env ∧ SameBytes s t

/-- After BUS.INIT "every packet [is] free" (70_reset_and_hazards.md R382), under either strategy. -/
def Obligations.BusInitFreesEveryPacket : Prop :=
  ∀ (s t : State), s.cfg.wf = true → exec .busInit s = .next t → ∀ i, i < s.cfg.numBuffers → t.pktFree i = true

/-- CS.ENTER and CS.EXIT set and clear `irq_mask` and nothing else; "The pair does not nest" (60_exceptions.md
R353). SET_REBOOT_TIMER writes `reboot_timer` and nothing else; above `TIMER_MAX` it is refused (45_dispatcher.md
R318). -/
def Obligations.SectionAndTimer : Prop :=
  (∀ s : State, s.ctx.irqMask = false →
    exec .csEnter s = .next { s with ctx := { s.ctx with irqMask := true } } ∧
    exec .csExit s = .refused .noSection) ∧
  (∀ s : State, s.ctx.irqMask = true →
    exec .csExit s = .next { s with ctx := { s.ctx with irqMask := false } } ∧
    exec .csEnter s = .refused .nestedSection) ∧
  (∀ (s : State) (n : BitVec 32), n.toNat ≤ s.cfg.timerMax →
    exec (.setRebootTimer n) s = .next { s with ctx := { s.ctx with rebootTimer := n.toNat } }) ∧
  (∀ (s : State) (n : BitVec 32), s.cfg.timerMax < n.toNat →
    exec (.setRebootTimer n) s = .refused .timerAboveMax)

/-! ## The allocator -/

/-- ALLOC takes the lowest-numbered free packet of the shared pool, clears its bit and its header's `len` and
`index`; with no packet free the result is none (41_allocator.md R172). -/
def Obligations.AllocTakesLowestFree : Prop :=
  (∀ (s : State) (ep : Byte) (n : Nat), n < s.cfg.numBuffers → s.pool.freeMap.getMsbD n = true →
    (∀ m, m < n → s.pool.freeMap.getMsbD m = false) →
    ∃ t, exec (.alloc ep) s = .next t ∧ t.env.result = .packet (some n) ∧
      t.pool.freeMap = s.pool.freeMap &&& ~~~(0x80000000#32 >>> n) ∧
      t.pkt n = ⟨0, 0, (s.pkt n).owner⟩ ∧ SameHeadersBut [n] s t ∧ t.pool.freeList = s.pool.freeList ∧
      t = { s with pool := t.pool, env := { s.env with result := t.env.result } } ∧ SameBytes s t) ∧
  (∀ (s : State) (ep : Byte), (∀ m, m < s.cfg.numBuffers → s.pool.freeMap.getMsbD m = false) →
    exec (.alloc ep) s = .next { s with env := { s.env with result := .packet none } })

/-- ALLOC under Segregated pops the endpoint's free list; an endpoint out of range, or an empty list, answers none
(41_allocator.md R174). -/
def Obligations.AllocSegPopsFreeList : Prop :=
  (∀ (s : State) (ep : Byte) (p : Nat) (rest : List Nat), 1 ≤ ep.toNat → ep.toNat ≤ s.cfg.nEp.toNat →
    s.pool.freeList.get (ep.setWidth 4) = p :: rest →
    ∃ t, exec (.allocSeg ep) s = .next t ∧ t.env.result = .packet (some p) ∧
      t.pool.freeList.get (ep.setWidth 4) = rest ∧
      (∀ e, e ≠ ep.setWidth 4 → t.pool.freeList.get e = s.pool.freeList.get e) ∧
      t.pkt p = ⟨0, 0, (s.pkt p).owner⟩ ∧ SameHeadersBut [p] s t ∧ t.pool.freeMap = s.pool.freeMap ∧
      t = { s with pool := t.pool, env := { s.env with result := t.env.result } } ∧ SameBytes s t) ∧
  (∀ (s : State) (ep : Byte), (ep.toNat < 1 ∨ s.cfg.nEp.toNat < ep.toNat ∨
      s.pool.freeList.get (ep.setWidth 4) = []) →
    exec (.allocSeg ep) s = .next { s with env := { s.env with result := .packet none } })

/-- pool_return puts a packet that is not free back into the free structure of the build's strategy; a packet
that is free already is refused (41_allocator.md R175). -/
def Obligations.PoolReturnFrees : Prop :=
  (∀ (s : State) (p : BitVec 16), p.toNat < s.cfg.numBuffers → s.pktFree p.toNat = false →
    (s.cfg.allocStrategy = .sharedBitmap → exec (.poolReturn p) s =
      .next { s with pool := { s.pool with freeMap := s.pool.freeMap ||| (0x80000000#32 >>> p.toNat) } }) ∧
    (s.cfg.allocStrategy = .segregated → exec (.poolReturn p) s =
      .next { s with
        pool := { s.pool with
          freeList := s.pool.freeList.set (BitVec.ofNat 4 (s.pkt p.toNat).owner)
            (p.toNat :: s.pool.freeList.get (BitVec.ofNat 4 (s.pkt p.toNat).owner)) } })) ∧
  (∀ (s : State) (p : BitVec 16), p.toNat < s.cfg.numBuffers → s.pktFree p.toNat = true →
    exec (.poolReturn p) s = .refused .packetFree)

/-- starved_target answers the lowest-numbered starved endpoint under SharedBitmap, the starved owner under
Segregated, else none (41_allocator.md R177; that its value is the result: log 27). -/
def Obligations.StarvedTargetChoice : Prop :=
  (∀ (s : State) (p : BitVec 16) (e : Ep), s.cfg.allocStrategy = .sharedBitmap →
    1 ≤ e.toNat → e.toNat ≤ s.cfg.nEp.toNat → (s.endpoint e).starved = true →
    (∀ f : Ep, 1 ≤ f.toNat → f.toNat < e.toNat → (s.endpoint f).starved = false) →
    exec (.starvedTarget p) s = .next { s with env := { s.env with result := .endpoint (some e) } }) ∧
  (∀ (s : State) (p : BitVec 16), s.cfg.allocStrategy = .sharedBitmap →
    (∀ f : Ep, 1 ≤ f.toNat → f.toNat ≤ s.cfg.nEp.toNat → (s.endpoint f).starved = false) →
    exec (.starvedTarget p) s = .next { s with env := { s.env with result := .endpoint none } }) ∧
  (∀ (s : State) (p : BitVec 16) (e : Ep), s.cfg.allocStrategy = .segregated →
    (s.pkt p.toNat).owner = e.toNat → 1 ≤ e.toNat → e.toNat ≤ s.cfg.nEp.toNat →
    exec (.starvedTarget p) s = .next { s with env := { s.env with
      result := .endpoint (if (s.endpoint e).starved then some e else none) } })

/-- REDIRECT arms the first Unarmed receive slot, EVEN before ODD, with count `PKT_CAP` and the bank's toggle; the
flag falls by `STARVED_CLEAR`; with no Unarmed slot the packet returns to the pool (41_allocator.md R178). -/
def Obligations.RedirectArmsStarvedSlot : Prop :=
  (∀ (s : State) (e : Ep) (p : BitVec 16) (b : Bank), 1 ≤ e.toNat → e.toNat ≤ s.cfg.nEp.toNat →
    s.pktLoose p.toNat = true → (s.slot (slotOf e .rx b)).desc = 0 →
    (b = .odd → (s.slot (slotOf e .rx .even)).desc ≠ 0) →
    ∃ t, exec (.redirect e p) s = .next t ∧
      t.slot (slotOf e .rx b) =
        ⟨armedWord (BitVec.ofNat 10 s.cfg.pktCap) b.toggle, s.cfg.bufAddrs.getD p.toNat 0⟩ ∧
      SameSlotsBut [slotOf e .rx b] s t ∧
      t.endpoint e = { s.endpoint e with
        starved := s.cfg.starvedClear = .whenNoUnarmedSlot && (s.slot (slotOf e .rx b.flip)).desc = 0 } ∧
      SameEndpointsBut [e] s t ∧ t = { s with bdt := t.bdt, eps := t.eps } ∧ SameBytes s t) ∧
  (∀ (s : State) (e : Ep) (p : BitVec 16), 1 ≤ e.toNat → e.toNat ≤ s.cfg.nEp.toNat →
    s.pktLoose p.toNat = true → (s.slot (slotOf e .rx .even)).desc ≠ 0 →
    (s.slot (slotOf e .rx .odd)).desc ≠ 0 →
    exec (.redirect e p) s =
      exec (.poolReturn p) (s.setEndpoint e { s.endpoint e with starved := false }))

/-- RELEASE of a packet the caller holds: to the pool, unless an endpoint is chosen by starved_target and the
device is configured, then by redirection; a number that names no packet is ignored; a packet that is free or not
the caller's is refused (41_allocator.md R176; log 38). -/
def Obligations.ReleaseReturnsOrRedirects : Prop :=
  (∀ (s : State) (p : BitVec 16), s.pktHeld p.toNat = true →
    (s.starvedTarget p.toNat = none ∨ s.ep0.configuration = 0) →
    exec (.release p) s = .next (s.poolPut p.toNat)) ∧
  (∀ (s : State) (p : BitVec 16) (e : Ep), s.pktHeld p.toNat = true → s.starvedTarget p.toNat = some e →
    s.ep0.configuration ≠ 0 → ∃ t, exec (.release p) s = .next t ∧ exec (.redirect e p) s = .next t) ∧
  (∀ (s : State) (p : BitVec 16), s.cfg.numBuffers ≤ p.toNat → exec (.release p) s = .next s) ∧
  (∀ (s : State) (p : BitVec 16), p.toNat < s.cfg.numBuffers → s.pktHeld p.toNat = false →
    exec (.release p) s = .refused (if s.pktFree p.toNat then .packetFree else .packetNotHeld))

/-! ## The queues -/

/-- RXQ.ENQUEUE appends to the tail and adds the packet's length to the byte count (42_queues.md R191); a packet that is
queued already or empty is refused (its precondition); the refusal of a free packet is no rule's but the model's
deduction from 10_state.md R41 (log 16, DEDUCED). RX.DEQUEUE pops the head and subtracts its length, and
answers none for an empty queue or an endpoint out of range (R192, R201). -/
def Obligations.ReceiveQueue : Prop :=
  (∀ (s : State) (e : Ep) (p : BitVec 16), 1 ≤ e.toNat → e.toNat ≤ s.cfg.nEp.toNat →
    (s.pktQueued p.toNat = false → s.pktFree p.toNat = false → 0 < (s.pkt p.toNat).len →
      exec (.rxqEnqueue e p) s = .next { s with eps := s.eps.set e { s.endpoint e with
        rxq := (s.endpoint e).rxq ++ [p.toNat],
        rxBytes := (s.endpoint e).rxBytes + (s.pkt p.toNat).len } }) ∧
    (s.pktQueued p.toNat = true → exec (.rxqEnqueue e p) s = .refused .packetBusy) ∧
    (s.pktQueued p.toNat = false → s.pktFree p.toNat = true → exec (.rxqEnqueue e p) s = .refused .packetFree) ∧
    (s.pktQueued p.toNat = false → s.pktFree p.toNat = false → (s.pkt p.toNat).len = 0 →
      exec (.rxqEnqueue e p) s = .refused .emptyPacket)) ∧
  (∀ (s : State) (ep : Byte) (p : Nat) (rest : List Nat), 1 ≤ ep.toNat → ep.toNat ≤ s.cfg.nEp.toNat →
    (s.endpoint (ep.setWidth 4)).rxq = p :: rest →
    exec (.rxDequeue ep) s = .next { s with
      eps := s.eps.set (ep.setWidth 4) { s.endpoint (ep.setWidth 4) with
        rxq := rest,
        rxBytes := (s.endpoint (ep.setWidth 4)).rxBytes - (s.pkt p).len },
      env := { s.env with result := .packet (some p) } }) ∧
  (∀ (s : State) (ep : Byte), (ep.toNat < 1 ∨ s.cfg.nEp.toNat < ep.toNat ∨
      (s.endpoint (ep.setWidth 4)).rxq = []) →
    exec (.rxDequeue ep) s = .next { s with env := { s.env with result := .packet none } })

/-- RX.BYTES, TX.PKTS and RX.PKTS answer the cached byte count and the lengths of the transmit and receive queues,
0 for an endpoint out of range, and change nothing (42_queues.md R193 to R195, R201). -/
def Obligations.QueueCounts : Prop :=
  (∀ (s : State) (ep : Byte), 1 ≤ ep.toNat → ep.toNat ≤ s.cfg.nEp.toNat →
    exec (.rxBytes ep) s =
      .next { s with env := { s.env with result := .count (s.endpoint (ep.setWidth 4)).rxBytes } } ∧
    exec (.txPkts ep) s =
      .next { s with env := { s.env with result := .count (s.endpoint (ep.setWidth 4)).txq.length } } ∧
    exec (.rxPkts ep) s =
      .next { s with env := { s.env with result := .count (s.endpoint (ep.setWidth 4)).rxq.length } }) ∧
  (∀ (s : State) (ep : Byte), (ep.toNat < 1 ∨ s.cfg.nEp.toNat < ep.toNat) →
    exec (.rxBytes ep) s = .next { s with env := { s.env with result := .count 0 } } ∧
    exec (.txPkts ep) s = .next { s with env := { s.env with result := .count 0 } } ∧
    exec (.rxPkts ep) s = .next { s with env := { s.env with result := .count 0 } })

/-- TXQ.APPEND puts a packet at the tail of the transmit queue, TXQ.POP takes its head or answers none
(42_queues.md R196, R197). -/
def Obligations.TransmitQueue : Prop :=
  (∀ (s : State) (e : Ep) (p : BitVec 16), 1 ≤ e.toNat → e.toNat ≤ s.cfg.nEp.toNat →
    s.pktQueued p.toNat = false →
    exec (.txqAppend e p) s = .next { s with eps := s.eps.set e { s.endpoint e with
      txq := (s.endpoint e).txq ++ [p.toNat] } }) ∧
  (∀ (s : State) (e : Ep) (p : Nat) (rest : List Nat), 1 ≤ e.toNat → e.toNat ≤ s.cfg.nEp.toNat →
    (s.endpoint e).txq = p :: rest →
    exec (.txqPop e) s = .next { s with
      eps := s.eps.set e { s.endpoint e with txq := rest },
      env := { s.env with result := .packet (some p) } }) ∧
  (∀ (s : State) (e : Ep), 1 ≤ e.toNat → e.toNat ≤ s.cfg.nEp.toNat → (s.endpoint e).txq = [] →
    exec (.txqPop e) s = .next { s with env := { s.env with result := .packet none } })

/-! ## The bank allocator -/

/-- TX.SUBMIT in a state with a free bank binds the packet to that bank: the slot armed with the packet's length
and the bank's toggle, the state advanced (43_bank_allocator.md R211, R212). The record of R220 (log 17) notes the
discipline. -/
def Obligations.TxSubmitBindsFreeBank : Prop :=
  ∀ (s : State) (ep : Byte) (p : BitVec 16) (b : Bank) (nxt : TxState), 1 ≤ ep.toNat → ep.toNat ≤ s.cfg.nEp.toNat →
    (s.endpoint (ep.setWidth 4)).discipline ≠ .iso → s.pktHeld p.toNat = true →
    (s.pkt p.toNat).len ≤ s.cfg.pktCap →
    ((s.endpoint (ep.setWidth 4)).txState = .bothFreeEvenFirst ∧ b = .even ∧ nxt = .oddFree ∨
      (s.endpoint (ep.setWidth 4)).txState = .bothFreeOddFirst ∧ b = .odd ∧ nxt = .evenFree ∨
      (s.endpoint (ep.setWidth 4)).txState = .evenFree ∧ b = .even ∧ nxt = .noneFreeOddFirst ∨
      (s.endpoint (ep.setWidth 4)).txState = .oddFree ∧ b = .odd ∧ nxt = .noneFreeEvenFirst) →
    ∃ t, exec (.txSubmit ep p) s = .next t ∧
      t.slot (slotOf (ep.setWidth 4) .tx b) =
        ⟨armedWord (BitVec.ofNat 10 (s.pkt p.toNat).len) b.toggle, s.cfg.bufAddrs.getD p.toNat 0⟩ ∧
      SameSlotsBut [slotOf (ep.setWidth 4) .tx b] s t ∧
      t.endpoint (ep.setWidth 4) =
        { s.endpoint (ep.setWidth 4) with txState := nxt, discipline := .packet } ∧
      SameEndpointsBut [ep.setWidth 4] s t ∧ t = { s with bdt := t.bdt, eps := t.eps } ∧ SameBytes s t

/-- TX.SUBMIT in a NoneFree state queues the packet and touches no slot (43_bank_allocator.md R211); outside
1..N_EP it is ignored; a packet not held, too long, or an endpoint used isochronously is refused (R211, R220). -/
def Obligations.TxSubmitQueuesOrStops : Prop :=
  (∀ (s : State) (ep : Byte) (p : BitVec 16), 1 ≤ ep.toNat → ep.toNat ≤ s.cfg.nEp.toNat →
    (s.endpoint (ep.setWidth 4)).discipline ≠ .iso → s.pktHeld p.toNat = true →
    (s.pkt p.toNat).len ≤ s.cfg.pktCap →
    ((s.endpoint (ep.setWidth 4)).txState = .noneFreeEvenFirst ∨
      (s.endpoint (ep.setWidth 4)).txState = .noneFreeOddFirst) →
    ∃ t, exec (.txSubmit ep p) s = .next t ∧
      t.endpoint (ep.setWidth 4) = { s.endpoint (ep.setWidth 4) with
        txq := (s.endpoint (ep.setWidth 4)).txq ++ [p.toNat], discipline := .packet } ∧
      SameEndpointsBut [ep.setWidth 4] s t ∧ t = { s with eps := t.eps } ∧ SameBytes s t) ∧
  (∀ (s : State) (ep : Byte) (p : BitVec 16), (ep.toNat < 1 ∨ s.cfg.nEp.toNat < ep.toNat) →
    exec (.txSubmit ep p) s = .next s) ∧
  (∀ (s : State) (ep : Byte) (p : BitVec 16), 1 ≤ ep.toNat → ep.toNat ≤ s.cfg.nEp.toNat →
    ((s.endpoint (ep.setWidth 4)).discipline = .iso → exec (.txSubmit ep p) s = .refused .mixedDiscipline) ∧
    ((s.endpoint (ep.setWidth 4)).discipline ≠ .iso → s.pktHeld p.toNat = false →
      exec (.txSubmit ep p) s = .refused .packetNotHeld) ∧
    ((s.endpoint (ep.setWidth 4)).discipline ≠ .iso → s.pktHeld p.toNat = true →
      s.cfg.pktCap < (s.pkt p.toNat).len → exec (.txSubmit ep p) s = .refused .packetTooLong))

/-- TX.COMPLETE: a queued packet is popped and bound to the bank that just completed, the state by Table A; with
nothing queued the state by Table B and no slot touched (43_bank_allocator.md R213). -/
def Obligations.TxCompleteBindsOrFrees : Prop :=
  (∀ (s : State) (e : Ep) (b : Bank) (q : Nat) (rest : List Nat), 1 ≤ e.toNat → e.toNat ≤ s.cfg.nEp.toNat →
    (s.endpoint e).txq = q :: rest →
    ∃ t, exec (.txComplete e b) s = .next t ∧
      t.slot (slotOf e .tx b) =
        ⟨armedWord (BitVec.ofNat 10 (s.pkt q).len) b.toggle, s.cfg.bufAddrs.getD q 0⟩ ∧
      SameSlotsBut [slotOf e .tx b] s t ∧
      t.endpoint e = { s.endpoint e with txq := rest, txState := tableA (s.endpoint e).txState b } ∧
      SameEndpointsBut [e] s t ∧ t = { s with bdt := t.bdt, eps := t.eps } ∧ SameBytes s t) ∧
  (∀ (s : State) (e : Ep) (b : Bank), 1 ≤ e.toNat → e.toNat ≤ s.cfg.nEp.toNat → (s.endpoint e).txq = [] →
    exec (.txComplete e b) s = .next { s with
      eps := s.eps.set e { s.endpoint e with txState := tableB (s.endpoint e).txState b } })

/-- Tables A and B and the teardown map, cell by cell, as the values of their rows (43_bank_allocator.md R214,
R215, R221; that a value is the result: log 27). -/
def Obligations.BankTables : Prop :=
  ∀ (s : State) (b : Bank),
    (∀ st : TxState, exec (.txCompleteTableA st b) s = .next { s with env := { s.env with
      result := .bankState (match st with
        | .noneFreeEvenFirst => if b = .even then .noneFreeOddFirst else .noneFreeEvenFirst
        | .noneFreeOddFirst => if b = .even then .noneFreeOddFirst else .noneFreeEvenFirst
        | .evenFree => .noneFreeOddFirst
        | .oddFree => .noneFreeEvenFirst
        | .bothFreeEvenFirst => .oddFree
        | .bothFreeOddFirst => .evenFree) } }) ∧
    (∀ st : TxState, exec (.txCompleteTableB st b) s = .next { s with env := { s.env with
      result := .bankState (match st with
        | .noneFreeEvenFirst => if b = .even then .evenFree else .oddFree
        | .noneFreeOddFirst => if b = .even then .evenFree else .oddFree
        | .evenFree => .bothFreeEvenFirst
        | .oddFree => .bothFreeOddFirst
        | .bothFreeEvenFirst => .bothFreeEvenFirst
        | .bothFreeOddFirst => .bothFreeOddFirst) } }) ∧
    (∀ st : TxState, exec (.teardownBankMap st) s = .next { s with env := { s.env with
      result := .bankState (match st with
        | .bothFreeEvenFirst => .bothFreeEvenFirst
        | .bothFreeOddFirst => .bothFreeOddFirst
        | .evenFree => if s.cfg.teardownMap = .upstream then .bothFreeEvenFirst else .bothFreeOddFirst
        | .oddFree => if s.cfg.teardownMap = .upstream then .bothFreeOddFirst else .bothFreeEvenFirst
        | .noneFreeEvenFirst => .bothFreeEvenFirst
        | .noneFreeOddFirst => .bothFreeOddFirst) } })

/-- ISO.SUBMIT arms the slot `iso_bank` names, whoever owns it, and flips the flag; `tx_state` and `txq` are not
touched (43_bank_allocator.md R218). Outside 1..N_EP it is ignored; an endpoint driven with TX.SUBMIT, a buffer in one
of the block's regions or the descriptor store, be it of 0 bytes, and one past the address space are refused (R220,
93_implementation_defined.md U12, 20_memory.md R83; log 35). -/
def Obligations.IsoSubmitArmsFlaggedBank : Prop :=
  (∀ (s : State) (ep : Byte) (a : Word) (n : BitVec 10), 1 ≤ ep.toNat → ep.toNat ≤ s.cfg.nEp.toNat →
    ((s.endpoint (ep.setWidth 4)).discipline ≠ .packet → a.toNat + n.toNat ≤ 2 ^ 32 →
      (∀ r ∈ s.cfg.blockRegions ++ s.storeSpans, spansApart (a.toNat, max n.toNat 1) r = true) →
      ∃ t, exec (.isoSubmit ep a n) s = .next t ∧
        t.slot (slotOf (ep.setWidth 4) .tx (s.endpoint (ep.setWidth 4)).isoBank) =
          ⟨armedWord n (s.endpoint (ep.setWidth 4)).isoBank.toggle, a⟩ ∧
        SameSlotsBut [slotOf (ep.setWidth 4) .tx (s.endpoint (ep.setWidth 4)).isoBank] s t ∧
        t.endpoint (ep.setWidth 4) = { s.endpoint (ep.setWidth 4) with
          isoBank := (s.endpoint (ep.setWidth 4)).isoBank.flip, discipline := .iso } ∧
        SameEndpointsBut [ep.setWidth 4] s t ∧ t = { s with bdt := t.bdt, eps := t.eps } ∧ SameBytes s t) ∧
    ((s.endpoint (ep.setWidth 4)).discipline = .packet →
      exec (.isoSubmit ep a n) s = .refused .mixedDiscipline) ∧
    ((s.endpoint (ep.setWidth 4)).discipline ≠ .packet → 2 ^ 32 < a.toNat + n.toNat →
      exec (.isoSubmit ep a n) s = .refused .pastBuffer) ∧
    (∀ r ∈ s.cfg.blockRegions ++ s.storeSpans, (s.endpoint (ep.setWidth 4)).discipline ≠ .packet →
      a.toNat + n.toNat ≤ 2 ^ 32 → spansApart (a.toNat, max n.toNat 1) r = false →
      exec (.isoSubmit ep a n) s = .refused .notApplicationBuffer)) ∧
  (∀ (s : State) (ep : Byte) (a : Word) (n : BitVec 10), (ep.toNat < 1 ∨ s.cfg.nEp.toNat < ep.toNat) →
    exec (.isoSubmit ep a n) s = .next s)

/-- Convergence (43_bank_allocator.md R217): N submits and then N completions, the banks alternating from the one
that is first, empty the queue and end in the BothFree state of N's parity. -/
def Obligations.SubmitsAndCompletionsConverge : Prop :=
  ∀ (s : State) (e : Ep) (ps : List Nat), (s.endpoint e).txq = [] →
    ((s.endpoint e).txState = .bothFreeEvenFirst →
      ((completeMany e ps.length .even (submitAll s e ps)).endpoint e).txq = [] ∧
      ((completeMany e ps.length .even (submitAll s e ps)).endpoint e).txState =
        if ps.length % 2 = 0 then .bothFreeEvenFirst else .bothFreeOddFirst) ∧
    ((s.endpoint e).txState = .bothFreeOddFirst →
      ((completeMany e ps.length .odd (submitAll s e ps)).endpoint e).txq = [] ∧
      ((completeMany e ps.length .odd (submitAll s e ps)).endpoint e).txState =
        if ps.length % 2 = 0 then .bothFreeOddFirst else .bothFreeEvenFirst)

/-! ## The table -/

/-- BDT.WRITE writes the two words of one slot (40_bdt_link.md R140), on a slot the block does not hold, with a count
that the buffer at `addr` holds, whatever buffer that is. On an owned slot or beyond the table it is refused
(93_implementation_defined.md U12), and so are a receive count above the capacity of the buffer at `addr`
(30_encoding.md R119 (h)), a length to send past it (20_memory.md R83), a receive buffer in the descriptor store
(20_memory.md R70) and a slot whose completion waits (60_exceptions.md R345; log 29). -/
def Obligations.BdtWriteArmsSlot : Prop :=
  ∀ (s : State) (ep : Byte) (d : Dir) (b : Bank) (n : BitVec 10) (tog : Toggle) (a : Word) (k : SlotIx),
    k = slotOf (ep.setWidth 4) d b →
    (s.cfg.nEp.toNat < ep.toNat → exec (.bdtWrite ep d b n tog a) s = .refused .slotOutsideTable) ∧
    (ep.toNat ≤ s.cfg.nEp.toNat → descOwn (s.slot k).desc = true ∨ (∃ st ∈ s.regs.statFifo, statSlot st = k) →
      exec (.bdtWrite ep d b n tog a) s = .refused .slotOwned) ∧
    (ep.toNat ≤ s.cfg.nEp.toNat → descOwn (s.slot k).desc = false → (∀ st ∈ s.regs.statFifo, statSlot st ≠ k) →
      (s.fitsBuffer a n.toNat = true → (d = .rx → s.storeApart a n.toNat = true) →
        exec (.bdtWrite ep d b n tog a) s = .next { s with bdt := s.bdt.set k ⟨armedWord n tog, a⟩ }) ∧
      (s.fitsBuffer a n.toNat = false →
        exec (.bdtWrite ep d b n tog a) s = .refused (if d = .rx then .countAboveCapacity else .pastBuffer)) ∧
      (d = .rx → s.fitsBuffer a n.toNat = true → s.storeApart a n.toNat = false →
        exec (.bdtWrite ep d b n tog a) s = .refused .storeReadOnly))

/-- BDT.READC answers the byte count and address of a slot the link does not own and changes nothing; an owned
slot is refused (40_bdt_link.md R141). BDT.CLEAR writes every word of the table 0 and nothing else (R142). -/
def Obligations.BdtReadAndClear : Prop :=
  (∀ (s : State) (ep : Byte) (d : Dir) (b : Bank), ep.toNat ≤ s.cfg.nEp.toNat →
    (descOwn (s.slot (slotOf (ep.setWidth 4) d b)).desc = false → exec (.bdtReadc ep d b) s =
      .next { s with env := { s.env with
        result := .completion (descCount (s.slot (slotOf (ep.setWidth 4) d b)).desc).toNat
          (s.slot (slotOf (ep.setWidth 4) d b)).addr } }) ∧
    (descOwn (s.slot (slotOf (ep.setWidth 4) d b)).desc = true →
      exec (.bdtReadc ep d b) s = .refused .slotOwned)) ∧
  (∀ s : State, ∃ t, exec .bdtClear s = .next t ∧ (∀ k, t.slot k = ⟨0, 0⟩) ∧ t = { s with bdt := t.bdt } ∧
    SameBytes s t)

/-- The three descriptor words and the life cycle of a slot (40_bdt_link.md R143). Armed and unarmed words are
software's, on a slot the block does not hold, `addr` as it stands, with the bounds of BDT.WRITE. A completed word is
"exactly one link completion": the link's IN, OUT or SETUP that leaves this word, with its status byte, bank flip and
gates; a word no transaction leaves there (of another bank, toggle, direction, kind or count) changes nothing. That a bare word is such a step, and that the payload
received is what stands in the buffer, is the model's choice (log 21). -/
def Obligations.DescriptorWordsByForm : Prop :=
  (∀ (s : State) (k : SlotIx) (n : BitVec 10) (tog : Toggle) (f : BitVec 4) (a : Word), a = (s.slot k).addr →
    k.toNat < 4 * (s.cfg.nEp.toNat + 1) → descOwn (s.slot k).desc = false →
    (∀ st ∈ s.regs.statFifo, statSlot st ≠ k) →
    exec (.descUnarmed k) s = .next { s with bdt := s.bdt.set k ⟨0, a⟩ } ∧
    (s.fitsBuffer a n.toNat = true → (slotDir k = .rx → s.storeApart a n.toNat = true) →
      exec (.descArmed k n ⟨tog, f⟩) s = .next { s with bdt := s.bdt.set k ⟨armedForm n tog f, a⟩ }) ∧
    (s.fitsBuffer a n.toNat = false → exec (.descArmed k n ⟨tog, f⟩) s =
      .refused (if slotDir k = .rx then .countAboveCapacity else .pastBuffer)) ∧
    (slotDir k = .rx → s.fitsBuffer a n.toNat = true → s.storeApart a n.toNat = false →
      exec (.descArmed k n ⟨tog, f⟩) s = .refused .storeReadOnly)) ∧
  (∀ (s : State) (k : SlotIx) (n : BitVec 10) (tog : Toggle) (f : BitVec 4),
    (4 * (s.cfg.nEp.toNat + 1) ≤ k.toNat → exec (.descArmed k n ⟨tog, f⟩) s = .refused .slotOutsideTable ∧
      exec (.descUnarmed k) s = .refused .slotOutsideTable) ∧
    (k.toNat < 4 * (s.cfg.nEp.toNat + 1) → descOwn (s.slot k).desc = true →
      exec (.descArmed k n ⟨tog, f⟩) s = .refused .slotOwned ∧ exec (.descUnarmed k) s = .refused .slotOwned)) ∧
  (∀ (s : State) (e : Ep) (k : SlotIx) (w : Word), k = linkSlot s e .tx → w = (s.slot k).desc →
    exec (.descCompleted k (descCount w) (descTog w) 0x9) s = exec (.linkIn (e.setWidth 8)) s ∧
    (TokenOpen s (e.setWidth 8) → epcTxen (s.endptReg e) = true → descOwn w = true → descStall w = false →
      Reachable s.cfg (s.slot k).addr (descCount w).toNat →
      ∃ t, exec (.descCompleted k (descCount w) (descTog w) 0x9) s = .next t ∧
        exec (.linkIn (e.setWidth 8)) s = .next t)) ∧
  (∀ (s : State) (e : Ep) (k : SlotIx) (w : Word) (n : BitVec 10), k = linkSlot s e .rx → w = (s.slot k).desc →
    exec (.descCompleted k n (descTog w) 0x1) s =
      exec (.linkOut (e.setWidth 8) (descTog w) (memRead s.mem (s.slot k).addr n.toNat)) s ∧
    (e = 0 → exec (.descCompleted k 8 (descTog w) 0xD) s =
      exec (.linkSetup (memRead s.mem (s.slot k).addr 8)) s)) ∧
  (∀ (s : State) (k : SlotIx) (n : BitVec 10) (tog : Toggle) (tok : BitVec 4),
    (k ≠ linkSlot s (slotEp k) (slotDir k) ∨ tog ≠ descTog (s.slot k).desc ∨
      descOwn (s.slot k).desc = false ∧ epcStall (s.endptReg (slotEp k)) = false ∨
      tok ≠ 0xD ∧ tok ≠ 0x1 ∧ tok ≠ 0x9 ∨ (tok = 0x9 ∧ slotDir k = .rx) ∨ (tok ≠ 0x9 ∧ slotDir k = .tx) ∨
      (tok = 0xD ∧ slotEp k ≠ 0) ∨ (tok = 0x9 ∧ n ≠ descCount (s.slot k).desc) ∨ (tok = 0xD ∧ n ≠ 8)) →
    exec (.descCompleted k n tog tok) s = .next s)

/-! ## The link -/

/-- LINK.OUT completes (40_bdt_link.md R144 to R146): the payload is stored at the slot's address, the slot's
descriptor takes the byte count, its own toggle and token kind OUT, and `complete` follows (R149). The descriptor store
is "read-only for the block and for the link" (20_memory.md R70): a receive buffer in it is refused (log 24). -/
def Obligations.LinkOutCompletes : Prop :=
  ∀ (s : State) (ep : Byte) (tog : Toggle) (data : List Byte) (e : Ep) (k : SlotIx), s.memCanonical →
    e = ep.setWidth 4 → k = linkSlot s e .rx →
    TokenOpen s ep → epcRxen (s.endptReg e) = true → descOwn (s.slot k).desc = true →
    descStall (s.slot k).desc = false → data.length ≤ (descCount (s.slot k).desc).toNat →
    (s.cfg.rxToggleCheck = true → epcHshk (s.endptReg e) = true → tog = descTog (s.slot k).desc) →
    (Storable s (s.slot k).addr data.length →
      ∃ t, exec (.linkOut ep tog data) s = .next t ∧
        HoldsBytes t (s.slot k).addr data ∧ SameBytesOutside (s.slot k).addr data.length s t ∧
        t.slot k = ⟨completedWord (BitVec.ofNat 10 data.length) (descTog (s.slot k).desc) 0x1, (s.slot k).addr⟩ ∧
        SameSlotsBut [k] s t ∧ Completed s t e .rx ∧
        t = { s with
          regs := { s.regs with statFifo := t.regs.statFifo }, bdt := t.bdt, hwBank := t.hwBank, mem := t.mem }) ∧
    (s.storeApart (s.slot k).addr data.length = false → exec (.linkOut ep tog data) s = .refused .storeReadOnly)

/-- LINK.SETUP completes (40_bdt_link.md R147): 8 bytes stored, token kind SETUP, the link suspended; the armed
toggle is not compared. -/
def Obligations.LinkSetupCompletes : Prop :=
  ∀ (s : State) (data : List Byte) (k : SlotIx), s.memCanonical → k = linkSlot s 0 .rx → data.length = 8 →
    TokenOpen s 0 → epcRxen (s.endptReg 0) = true → epcCtldis (s.endptReg 0) = false →
    descOwn (s.slot k).desc = true → descStall (s.slot k).desc = false →
    8 ≤ (descCount (s.slot k).desc).toNat → Storable s (s.slot k).addr 8 →
    ∃ t, exec (.linkSetup data) s = .next t ∧
      HoldsBytes t (s.slot k).addr data ∧ SameBytesOutside (s.slot k).addr 8 s t ∧
      t.slot k = ⟨completedWord 8 (descTog (s.slot k).desc) 0xD, (s.slot k).addr⟩ ∧
      SameSlotsBut [k] s t ∧ t.regs.suspended = true ∧ Completed s t 0 .rx ∧
      t = { s with
        regs := { s.regs with statFifo := t.regs.statFifo, suspended := true },
        bdt := t.bdt, hwBank := t.hwBank, mem := t.mem }

/-- LINK.IN completes (40_bdt_link.md R148): the host receives `SENT(ep, toggle, bytes)` with exactly `count`
bytes of memory as they stand now, and the slot's descriptor takes token kind IN. -/
def Obligations.LinkInSends : Prop :=
  ∀ (s : State) (ep : Byte) (e : Ep) (k : SlotIx), e = ep.setWidth 4 → k = linkSlot s e .tx →
    TokenOpen s ep → epcTxen (s.endptReg e) = true → descOwn (s.slot k).desc = true →
    descStall (s.slot k).desc = false → Reachable s.cfg (s.slot k).addr (descCount (s.slot k).desc).toNat →
    ∃ t bytes, exec (.linkIn ep) s = .next t ∧
      t.env.out = s.env.out ++ [.sent e (descTog (s.slot k).desc) bytes] ∧
      bytes.length = (descCount (s.slot k).desc).toNat ∧ HoldsBytes s (s.slot k).addr bytes ∧
      t.slot k = ⟨completedWord (descCount (s.slot k).desc) (descTog (s.slot k).desc) 0x9, (s.slot k).addr⟩ ∧
      SameSlotsBut [k] s t ∧ Completed s t e .tx ∧ SameBytes s t ∧
      t = { s with
        regs := { s.regs with statFifo := t.regs.statFifo }, bdt := t.bdt, hwBank := t.hwBank,
        env := { s.env with out := t.env.out } }

/-- Where a token does not complete (40_bdt_link.md R144, R146, R147, R150, R151): nothing changes when the link is
closed to it, the endpoint is disabled for the direction, the slot is not Armed, an OUT is too long or carries the
wrong toggle, endpoint 0 takes no SETUP or its slot is armed with less than 8 bytes; a stalled endpoint answers STALL
and only sets `ISTAT.stall`, and LINK.STALLED does nothing elsewhere. The order of the tests is the model's (log 19).
-/
def Obligations.TokensThatDoNotComplete : Prop :=
  (∀ (s : State) (ep : Byte) (tog : Toggle) (data : List Byte), TokenClosed s ep →
    exec (.linkOut ep tog data) s = .next s ∧ exec (.linkIn ep) s = .next s ∧
    exec (.linkStalled ep) s = .next s ∧ (ep = 0 → exec (.linkSetup data) s = .next s)) ∧
  (∀ (s : State) (ep : Byte), (epcStall (s.endptReg (ep.setWidth 4)) = false ∨
      epcRxen (s.endptReg (ep.setWidth 4)) = false ∧ epcTxen (s.endptReg (ep.setWidth 4)) = false) →
    exec (.linkStalled ep) s = .next s) ∧
  (∀ (s : State) (ep : Byte) (tog : Toggle) (data : List Byte), ¬ TokenClosed s ep →
    epcStall (s.endptReg (ep.setWidth 4)) = true →
    (epcRxen (s.endptReg (ep.setWidth 4)) = true ∨ epcTxen (s.endptReg (ep.setWidth 4)) = true) →
    exec (.linkOut ep tog data) s = .next { s with regs := { s.regs with istat := s.regs.istat ||| 0x80 } } ∧
    exec (.linkIn ep) s = .next { s with regs := { s.regs with istat := s.regs.istat ||| 0x80 } } ∧
    exec (.linkStalled ep) s = .next { s with regs := { s.regs with istat := s.regs.istat ||| 0x80 } } ∧
    (ep = 0 →
      exec (.linkSetup data) s = .next { s with regs := { s.regs with istat := s.regs.istat ||| 0x80 } })) ∧
  (∀ (s : State) (ep : Byte) (tog : Toggle) (data : List Byte), TokenOpen s ep →
    ((epcRxen (s.endptReg (ep.setWidth 4)) = false ∨
        descOwn (s.slot (linkSlot s (ep.setWidth 4) .rx)).desc = false) →
      exec (.linkOut ep tog data) s = .next s ∧ (ep = 0 → exec (.linkSetup data) s = .next s)) ∧
    ((epcTxen (s.endptReg (ep.setWidth 4)) = false ∨
        descOwn (s.slot (linkSlot s (ep.setWidth 4) .tx)).desc = false) → exec (.linkIn ep) s = .next s) ∧
    (descStall (s.slot (linkSlot s (ep.setWidth 4) .rx)).desc = false →
      (descCount (s.slot (linkSlot s (ep.setWidth 4) .rx)).desc).toNat < data.length ∨
        s.cfg.rxToggleCheck = true ∧ epcHshk (s.endptReg (ep.setWidth 4)) = true ∧
        descDts (s.slot (linkSlot s (ep.setWidth 4) .rx)).desc = true ∧
        tog ≠ descTog (s.slot (linkSlot s (ep.setWidth 4) .rx)).desc →
      exec (.linkOut ep tog data) s = .next s) ∧
    (ep = 0 → descStall (s.slot (linkSlot s 0 .rx)).desc = false →
      (epcCtldis (s.endptReg 0) = true ∨ (descCount (s.slot (linkSlot s 0 .rx)).desc).toNat < 8) →
      exec (.linkSetup data) s = .next s))

/-- The link's events that complete no token (40_bdt_link.md R150, R152 to R155): each sets its own flag and
nothing else, a NAK nothing at all; an error is latched in `ERRSTAT` and flagged where `ERREN` enables it. While
`CTL.enable` = 0 none of them happens (for ERROR and SLEEP: log 19). -/
def Obligations.LinkFlagEvents : Prop :=
  (∀ s : State, s.regs.ctlEnable = true →
    exec .linkSof s = .next { s with regs := { s.regs with istat := s.regs.istat ||| 0x04 } } ∧
    exec .linkReset s = .next { s with regs := { s.regs with istat := s.regs.istat ||| 0x01 } } ∧
    exec .linkSleep s = .next { s with regs := { s.regs with istat := s.regs.istat ||| 0x10 } } ∧
    (∀ m : Byte, m ≠ 0 → exec (.linkError m) s = .next { s with
      regs := { s.regs with
        errStat := s.regs.errStat ||| m,
        istat := if (s.regs.errStat ||| m) &&& s.regs.errEn = 0 then s.regs.istat
          else s.regs.istat ||| 0x02 } })) ∧
  (∀ (s : State) (m : Byte), s.regs.ctlEnable = false →
    exec .linkSof s = .next s ∧ exec .linkReset s = .next s ∧ exec .linkSleep s = .next s ∧
    exec (.linkError m) s = .next s) ∧
  (∀ (s : State) (ep : Byte) (d : Dir), exec (.linkNak ep d) s = .next s) ∧
  (∀ (s : State) (e : Ep) (d : Dir), ∃ t, exec (.linkComplete e d) s = .next t ∧ Completed s t e d ∧
    t = { s with regs := { s.regs with statFifo := t.regs.statFifo }, hwBank := t.hwBank })

/-! ## Endpoint 0 -/

/-- EP0.TRANSMIT arms the slot of the current bank with the current toggle and flips both (44_control_transfer.md
R256); as a command it is refused above `EP0_SIZE`, with no control transfer open (93_implementation_defined.md U12;
when one is open: log 18) and past the caller's buffer (20_memory.md R83); that the buffer may lie in a
packet, an endpoint-0 buffer or a descriptor is the model's choice (log 40). EP0.SEND clamps the length to `wLength` and
arms one packet, two, or two and a remainder (R257). -/
def Obligations.Ep0TransmitAndSend : Prop :=
  (∀ (s : State) (a : Word) (n : BitVec 10), n.toNat ≤ s.cfg.ep0Size → s.ep0.transferOpen = true →
    s.fitsBuffer a n.toNat = true →
    ∃ t, exec (.ep0Transmit a n) s = .next t ∧ ArmedOne s t a n.toNat ∧
      t = { s with bdt := t.bdt, ep0 := t.ep0 } ∧ SameBytes s t) ∧
  (∀ (s : State) (a : Word) (n : BitVec 10),
    (s.cfg.ep0Size < n.toNat → exec (.ep0Transmit a n) s = .refused .ep0TooLong) ∧
    (n.toNat ≤ s.cfg.ep0Size → s.ep0.transferOpen = false →
      exec (.ep0Transmit a n) s = .refused .noTransferOpen) ∧
    (n.toNat ≤ s.cfg.ep0Size → s.ep0.transferOpen = true → s.fitsBuffer a n.toNat = false →
      exec (.ep0Transmit a n) s = .refused .pastBuffer)) ∧
  (∀ (s : State) (a : Word) (len : BitVec 32) (n : Nat), n = min len.toNat s.ep0.setup.wLength.toNat →
    ∃ t, exec (.ep0Send a len) s = .next t ∧ t = { s with bdt := t.bdt, ep0 := t.ep0 } ∧ SameBytes s t ∧
      (n < s.cfg.ep0Size → ArmedOne s t a n) ∧
      (s.cfg.ep0Size ≤ n →
        t.slot (slotOf 0 .tx s.ep0.txBank) = ⟨armedWord (BitVec.ofNat 10 s.cfg.ep0Size) s.ep0.txToggle, a⟩ ∧
        t.slot (slotOf 0 .tx s.ep0.txBank.flip) =
          ⟨armedWord (BitVec.ofNat 10 (min (n - s.cfg.ep0Size) s.cfg.ep0Size)) s.ep0.txToggle.flip,
            a + BitVec.ofNat 32 s.cfg.ep0Size⟩ ∧
        SameSlotsBut [slotOf 0 .tx .even, slotOf 0 .tx .odd] s t ∧
        (n < 2 * s.cfg.ep0Size → t.ep0 = s.ep0) ∧
        (2 * s.cfg.ep0Size ≤ n → t.ep0 = { s.ep0 with
          txPtr := some (a + BitVec.ofNat 32 s.cfg.ep0Size + BitVec.ofNat 32 s.cfg.ep0Size),
          txLen := n - 2 * s.cfg.ep0Size })))

/-- EP0.IN (44_control_transfer.md R260): the remainder's next chunk is armed, the pointer kept while bytes or a
zero-length packet are owed; a pending address is applied exactly once (R265); StatusStage becomes Idle (R268). In the
model's own record the transfer stays open only where the request sends data to the host (log 18). -/
def Obligations.Ep0InDrainsAndApplies : Prop :=
  ∀ (s : State) (k : SlotIx) (o : Bool),
    o = (s.ep0.transferOpen && s.ep0.setup.bmRequestType.getLsbD 7 && s.ep0.setup.wLength != 0) →
    ∃ t, exec (.ep0In k) s = .next t ∧ exec (.tokIn k) s = .next (resumed t) ∧
    t.regs = (if s.ep0.addrPending then { s.regs with addr := s.ep0.addrLatch } else s.regs) ∧
    t = { s with regs := t.regs, bdt := t.bdt, ep0 := t.ep0 } ∧ SameBytes s t ∧
    (s.ep0.txPtr = none → t.bdt = s.bdt ∧ t.ep0 = { s.ep0 with
      addrPending := false, transferOpen := o, phase := if s.ep0.phase = .statusStage then .idle else s.ep0.phase }) ∧
    (∀ (p : Word) (n : Nat), s.ep0.txPtr = some p → n = min s.ep0.txLen s.cfg.ep0Size →
      t.slot (slotOf 0 .tx s.ep0.txBank) = ⟨armedWord (BitVec.ofNat 10 n) s.ep0.txToggle, p⟩ ∧
      SameSlotsBut [slotOf 0 .tx s.ep0.txBank] s t ∧
      t.ep0 = { s.ep0 with
        txToggle := s.ep0.txToggle.flip, txBank := s.ep0.txBank.flip,
        txPtr := if s.ep0.txLen - n > 0 ∨ n = s.cfg.ep0Size then some (p + BitVec.ofNat 32 n) else none,
        txLen := s.ep0.txLen - n,
        addrPending := false, transferOpen := o, phase := if s.ep0.phase = .statusStage then .idle else s.ep0.phase })

/-- EP0.SETUP captures the 8 bytes, re-arms the slot DATA1, unarms the transmit slots, clears the stale context and
dispatches (44_control_transfer.md R241), whatever the request. For every request but SET_CONFIGURATION, with no hook
registered and `E_CMP` within `N_EP`, it completes, and the toggle of the reply's first packet is DATA1 (R242);
TOK.SETUP is the same and clears the suspend (R240). That the capture opens a transfer (`transferOpen` true) is the
model's own record (log 18). -/
def Obligations.Ep0SetupCapturesAndDispatches : Prop :=
  (∀ (s : State) (b : Bank) (k : SlotIx), k = slotOf 0 .rx b → Reachable s.cfg (s.slot k).addr 8 →
    ∃ u, exec (.ep0Setup k) s = exec .reqDispatch u ∧
      u.slot k = ⟨armedWord (BitVec.ofNat 10 s.cfg.ep0Size) .data1, (s.slot k).addr⟩ ∧
      (∀ c, u.slot (slotOf 0 .tx c) = ⟨0, (s.slot (slotOf 0 .tx c)).addr⟩) ∧
      SameSlotsBut [k, slotOf 0 .tx .even, slotOf 0 .tx .odd] s u ∧
      u = { s with
        bdt := u.bdt,
        ep0 := { s.ep0 with
          setup := decodeSetup (memRead s.mem (s.slot k).addr 8), txPtr := none, txLen := 0, txToggle := .data1,
          addrPending := false, phase := .setupReceived, transferOpen := true } }) ∧
  (∀ (s : State) (b : Bank) (k : SlotIx) (p : Setup), k = slotOf 0 .rx b → Reachable s.cfg (s.slot k).addr 8 →
    p = decodeSetup (memRead s.mem (s.slot k).addr 8) →
    classifyRequest s.cfg p.bRequest p.bmRequestType ≠ .setConfiguration →
    s.cfg.numClassHooks = 0 → s.cfg.eCmp ≤ s.cfg.nEp.toNat →
    ∃ t, exec (.ep0Setup k) s = .next t ∧ exec (.tokSetup k) s = .next (resumed t) ∧
      t.ep0.setup = p ∧ t.slot k = ⟨armedWord (BitVec.ofNat 10 s.cfg.ep0Size) .data1, (s.slot k).addr⟩ ∧
      SameSlotsBut [k, slotOf 0 .tx .even, slotOf 0 .tx .odd] s t ∧
      ((t.slot (slotOf 0 .tx s.ep0.txBank)).desc = 0 ∨
        descTog (t.slot (slotOf 0 .tx s.ep0.txBank)).desc = .data1) ∧
      t.ep0.addrPending = decide (classifyRequest s.cfg p.bRequest p.bmRequestType = .setAddress) ∧
      t.ep0.configuration = s.ep0.configuration ∧
      (s.memCanonical → s.cfg.replyAddr.toNat + 2 ≤ 2 ^ 32 → SameBytesOutside s.cfg.replyAddr 2 s t) ∧
      t = { s with regs := { s.regs with endpt := t.regs.endpt }, bdt := t.bdt, ep0 := t.ep0, mem := t.mem })

/-- EP0.OUT asks the OUT-data hook (44_control_transfer.md R261): the buffer is given back armed DATA1; an
acknowledging hook arms a zero-length IN and the phase becomes StatusStage; a deferring hook arms nothing and an OUT
nobody recognises is dropped, and either ends a device-to-host transfer; the hook's timer value is set. TOK.OUT is the
same and clears the suspend (R240). The hook's answer is an input, whatever payload it was given (log 11); left out
here are hooks that make calls and timer values above `TIMER_MAX`. An OUT ends a device-to-host transfer in the
model's own record too (log 18). -/
def Obligations.Ep0OutAsksHook : Prop :=
  (∀ (s : State) (b : Bank) (k : SlotIx) (o : Bool), k = slotOf 0 .rx b →
    o = (s.ep0.transferOpen && !s.ep0.setup.bmRequestType.getLsbD 7) →
    Reachable s.cfg (s.slot k).addr (descCount (s.slot k).desc).toNat → s.env.outAnswers = [] →
    ∃ t, exec (.ep0Out k) s = .next t ∧ exec (.tokOut k) s = .next (resumed t) ∧
      t.slot k = ⟨armedWord (BitVec.ofNat 10 s.cfg.ep0Size) .data1, (s.slot k).addr⟩ ∧ SameSlotsBut [k] s t ∧
      t = { s with
        bdt := t.bdt,
        ep0 := { s.ep0 with
          transferOpen := o,
          phase := if s.ep0.setup.bmRequestType.getLsbD 7 then .idle else s.ep0.phase } } ∧ SameBytes s t) ∧
  (∀ (s : State) (b : Bank) (k : SlotIx) (h : OutOutcome) (tm : Option Nat) (rest : List OutAnswer) (o : Bool),
    k = slotOf 0 .rx b → o = (s.ep0.transferOpen && !s.ep0.setup.bmRequestType.getLsbD 7) →
    Reachable s.cfg (s.slot k).addr (descCount (s.slot k).desc).toNat →
    s.env.outAnswers = ⟨[], h, tm⟩ :: rest → (∀ n, tm = some n → n ≤ s.cfg.timerMax) →
    ∃ t, exec (.ep0Out k) s = .next t ∧ exec (.tokOut k) s = .next (resumed t) ∧
      t.slot k = ⟨armedWord (BitVec.ofNat 10 s.cfg.ep0Size) .data1, (s.slot k).addr⟩ ∧
      t = { s with
        bdt := t.bdt, ep0 := t.ep0, ctx := { s.ctx with rebootTimer := tm.getD s.ctx.rebootTimer },
        env := { s.env with outAnswers := rest } } ∧
      SameBytes s t ∧
      (h = .ack → t.slot (slotOf 0 .tx s.ep0.txBank) = ⟨armedWord 0 s.ep0.txToggle, s.cfg.replyAddr⟩ ∧
        SameSlotsBut [k, slotOf 0 .tx s.ep0.txBank] s t ∧
        t.ep0 = { s.ep0 with
          txToggle := s.ep0.txToggle.flip, txBank := s.ep0.txBank.flip, transferOpen := o,
          phase := .statusStage }) ∧
      (h ≠ .ack → SameSlotsBut [k] s t ∧ t.ep0 = { s.ep0 with
        transferOpen := o, phase := if s.ep0.setup.bmRequestType.getLsbD 7 then .idle else s.ep0.phase }))

/-- GET_STATUS(device) replies two zero bytes (44_control_transfer.md R250), GET_CONFIGURATION the configuration
value (R248), each cut to `wLength`; SET_ADDRESS latches `wValue[6:0]` and arms a zero-length IN, `ADDR` unchanged
(R246). REQ.DISPATCH of a SET_ADDRESS is the same and sets the phase (R243). -/
def Obligations.FixedReplies : Prop :=
  (∀ s : State, s.memCanonical → 8 ≤ s.cfg.ep0Size → s.cfg.replyAddr.toNat + 2 ≤ 2 ^ 32 →
    (∃ t, exec .reqGetStatusDev s = .next t ∧ HoldsBytes t s.cfg.replyAddr [0, 0] ∧
      SameBytesOutside s.cfg.replyAddr 2 s t ∧
      ArmedOne s t s.cfg.replyAddr (min 2 s.ep0.setup.wLength.toNat) ∧
      t = { s with bdt := t.bdt, ep0 := t.ep0, mem := t.mem }) ∧
    (∃ t, exec .reqGetConfiguration s = .next t ∧ HoldsBytes t s.cfg.replyAddr [s.ep0.configuration] ∧
      SameBytesOutside s.cfg.replyAddr 1 s t ∧
      ArmedOne s t s.cfg.replyAddr (min 1 s.ep0.setup.wLength.toNat) ∧
      t = { s with bdt := t.bdt, ep0 := t.ep0, mem := t.mem })) ∧
  (∀ s : State, 0 < s.cfg.ep0Size →
    ∃ t, exec .reqSetAddress s = .next t ∧
      t.slot (slotOf 0 .tx s.ep0.txBank) = ⟨armedWord 0 s.ep0.txToggle, s.cfg.replyAddr⟩ ∧
      SameSlotsBut [slotOf 0 .tx s.ep0.txBank] s t ∧
      t = { s with
        bdt := t.bdt,
        ep0 := { s.ep0 with
          addrLatch := s.ep0.setup.wValue.extractLsb' 0 7, addrPending := true,
          txToggle := s.ep0.txToggle.flip, txBank := s.ep0.txBank.flip } } ∧
      SameBytes s t ∧
      (s.ep0.setup.bRequest = 0x05 → s.ep0.setup.bmRequestType = 0x00 → exec .reqDispatch s =
        .next { t with ep0 := { t.ep0 with
          phase := if s.ep0.setup.wLength = 0 then .statusStage else .dataStage } }))

/-- GET_DESCRIPTOR sends the first entry of `DESC_LIST` whose value and index match, a string with the length its
own first byte gives, another with its fixed length; with no match it raises Stall0 (44_control_transfer.md
R249). -/
def Obligations.GetDescriptorSendsFirstMatch : Prop :=
  (∀ (s : State) (bm : Byte) (pre post : List DescEntry) (e : DescEntry) (len : Nat),
    s.cfg.descList = pre ++ e :: post →
    (∀ d ∈ pre, d.wValue ≠ s.ep0.setup.wValue ∨ d.wIndex ≠ s.ep0.setup.wIndex) →
    e.wValue = s.ep0.setup.wValue → e.wIndex = s.ep0.setup.wIndex →
    len = (if s.ep0.setup.wValue.extractLsb' 8 8 = 3#8 then (s.byte e.addr).toNat else e.length) →
    len < 2 ^ 32 →
    ∃ t, exec (.reqGetDescriptor bm) s = .next t ∧ exec (.ep0Send e.addr (BitVec.ofNat 32 len)) s = .next t) ∧
  (∀ (s : State) (bm : Byte),
    (∀ d ∈ s.cfg.descList, d.wValue ≠ s.ep0.setup.wValue ∨ d.wIndex ≠ s.ep0.setup.wIndex) →
    exec (.reqGetDescriptor bm) s = .next (stalledEp0 s))

/-- GET_STATUS(endpoint), CLEAR_FEATURE and SET_FEATURE (44_control_transfer.md R244, R245, R251 to R253): an index
above `E_CMP`, or `wValue` not 0 in the feature pair, raises Stall0; an index that passes and exceeds `N_EP`
faults; another reads or writes the one halt bit of `ENDPT[i]`. -/
def Obligations.EndpointRequests : Prop :=
  (∀ (s : State) (i : Nat), i = (s.ep0.setup.wIndex &&& s.cfg.statusIndexMask).toNat →
    (s.cfg.eCmp < i → exec .reqGetStatusEp s = .next (stalledEp0 s)) ∧
    (i ≤ s.cfg.eCmp → s.cfg.nEp.toNat < i → exec .reqGetStatusEp s = .fault .endpointIndexOutOfRange) ∧
    (i ≤ s.cfg.eCmp → i ≤ s.cfg.nEp.toNat → s.memCanonical → 8 ≤ s.cfg.ep0Size →
      s.cfg.replyAddr.toNat + 2 ≤ 2 ^ 32 → ∃ t, exec .reqGetStatusEp s = .next t ∧
        HoldsBytes t s.cfg.replyAddr [if (s.endptReg (BitVec.ofNat 4 i)).getLsbD 1 then 1 else 0, 0] ∧
        SameBytesOutside s.cfg.replyAddr 2 s t ∧
        ArmedOne s t s.cfg.replyAddr (min 2 s.ep0.setup.wLength.toNat) ∧
        t = { s with bdt := t.bdt, ep0 := t.ep0, mem := t.mem })) ∧
  (∀ (s : State) (i : Nat), i = (s.ep0.setup.wIndex &&& s.cfg.featureIndexMask).toNat →
    (s.cfg.eCmp < i ∨ s.ep0.setup.wValue ≠ 0 →
      exec .reqClearFeatureEp s = .next (stalledEp0 s) ∧ exec .reqSetFeatureEp s = .next (stalledEp0 s)) ∧
    (i ≤ s.cfg.eCmp → s.ep0.setup.wValue = 0 → s.cfg.nEp.toNat < i →
      exec .reqClearFeatureEp s = .fault .endpointIndexOutOfRange ∧
      exec .reqSetFeatureEp s = .fault .endpointIndexOutOfRange) ∧
    (i ≤ s.cfg.eCmp → s.ep0.setup.wValue = 0 → i ≤ s.cfg.nEp.toNat → 0 < s.cfg.ep0Size →
      (s.endptReg (BitVec.ofNat 4 i)) &&& 0xE0 = 0 →
      (∃ t, exec .reqClearFeatureEp s = .next t ∧
        t.endptReg (BitVec.ofNat 4 i) = s.endptReg (BitVec.ofNat 4 i) &&& 0xFD ∧
        SameEndptBut [BitVec.ofNat 4 i] s t ∧ ArmedOne s t s.cfg.replyAddr 0 ∧
        t = { s with regs := { s.regs with endpt := t.regs.endpt }, bdt := t.bdt, ep0 := t.ep0 } ∧
        SameBytes s t) ∧
      (∃ t, exec .reqSetFeatureEp s = .next t ∧
        t.endptReg (BitVec.ofNat 4 i) = s.endptReg (BitVec.ofNat 4 i) ||| 0x02 ∧
        SameEndptBut [BitVec.ofNat 4 i] s t ∧ ArmedOne s t s.cfg.replyAddr 0 ∧
        t = { s with regs := { s.regs with endpt := t.regs.endpt }, bdt := t.bdt, ep0 := t.ep0 } ∧
        SameBytes s t)))

/-- SET_CONFIGURATION (44_control_transfer.md R247), from any state in which no packet is bound or queued twice and
none of them is free: the value is recorded, "every endpoint's receive/transmit queues empty, byte counters zero, and
bank states reset to a BothFree variant", each endpoint enabled from `EP_CONFIG` (of which `ENDPT` keeps the named
bits: log 25), its transmit slots Unarmed, each receive bank of an enabled endpoint armed with the packet ALLOC gives
it (41 R172, R174), or Unarmed and the endpoint starved, and a zero-length IN armed. `g` says which packet each bank
got: the torn-down packets are returned first, then ALLOC runs for each bank in order, and the pool is what is left;
so the packets are packets of the pool, all different, no longer free, every torn-down packet that was not taken again
is free, and a bank gets none only where the pool is exhausted. Kept: `iso_bank`, `hw_bank`, memory. That the record
of the transmit operation in use (`discipline`) is cleared is about the model's own record (log 17). -/
def Obligations.SetConfigurationTearsDown : Prop :=
  ∀ (s : State) (g : List ((Ep × Bank) × Option Nat)) (u : State), s.teardownReady → 0 < s.cfg.ep0Size →
    allocEach (Config.rxRequests s.cfg) s.poolReturned = (g, u) →
    ∃ t, exec .reqSetConfiguration s = .next t ∧ t.pool = u.pool ∧
      (∀ e : Ep, 1 ≤ e.toNat → e.toNat ≤ s.cfg.nEp.toNat →
        TxState.bothFree (t.endpoint e).txState = true ∧
        ((t.endpoint e).starved = true ↔ ∃ b, ((e, b), none) ∈ g) ∧
        t.endpoint e = {
          rxq := [], rxBytes := 0, txq := [],
          txState := teardownBank s.cfg.teardownMap (s.endpoint e).txState,
          epCfg := s.cfg.epConfig.get e, isoBank := (s.endpoint e).isoBank,
          starved := (t.endpoint e).starved, discipline := .unused } ∧
        t.endptReg e = s.cfg.epConfig.get e &&& 0x1F ∧
        (∀ b, t.slot (slotOf e .tx b) = ⟨0, (s.slot (slotOf e .tx b)).addr⟩) ∧
        (∀ b p, ((e, b), some p) ∈ g → t.slot (slotOf e .rx b) =
          ⟨armedWord (BitVec.ofNat 10 s.cfg.pktCap) b.toggle, s.cfg.bufAddrs.getD p 0⟩) ∧
        (∀ b, ((e, b), none) ∈ g → t.slot (slotOf e .rx b) = ⟨0, (s.slot (slotOf e .rx b)).addr⟩) ∧
        ((s.cfg.epConfig.get e).getLsbD 3 = true → ∀ b, ∃ p, ((e, b), p) ∈ g) ∧
        ((s.cfg.epConfig.get e).getLsbD 3 = false → (t.endpoint e).starved = false ∧
          ∀ b, t.slot (slotOf e .rx b) = ⟨0, (s.slot (slotOf e .rx b)).addr⟩)) ∧
      (s.poolSound →
        (g.filterMap Prod.snd).Nodup ∧
        (∀ p ∈ g.filterMap Prod.snd, p < s.cfg.numBuffers) ∧
        (∀ i, i < s.cfg.numBuffers → (t.pktFree i = true ↔
          (s.pktFree i = true ∨ i ∈ s.tornPackets) ∧ i ∉ g.filterMap Prod.snd)) ∧
        (∀ e b, ((e, b), none) ∈ g → match s.cfg.allocStrategy with
          | .sharedBitmap => ∀ i, i < s.cfg.numBuffers → t.pktFree i = false
          | .segregated => t.pool.freeList.get e = [])) ∧
      t.slot (slotOf 0 .tx s.ep0.txBank) = ⟨armedWord 0 s.ep0.txToggle, s.cfg.replyAddr⟩ ∧
      (∀ d b, slotOf 0 d b ≠ slotOf 0 .tx s.ep0.txBank → t.slot (slotOf 0 d b) = s.slot (slotOf 0 d b)) ∧
      (∀ k : SlotIx, 4 * (s.cfg.nEp.toNat + 1) ≤ k.toNat → t.slot k = s.slot k) ∧
      (∀ e : Ep, (e.toNat < 1 ∨ s.cfg.nEp.toNat < e.toNat) →
        t.endpoint e = s.endpoint e ∧ t.endptReg e = s.endptReg e) ∧
      t = { s with
        regs := { s.regs with endpt := t.regs.endpt }, bdt := t.bdt, pool := t.pool, eps := t.eps,
        ep0 := { s.ep0 with
          configuration := s.ep0.setup.wValue.extractLsb' 0 8,
          txToggle := s.ep0.txToggle.flip, txBank := s.ep0.txBank.flip } } ∧
      SameBytes s t

/-- REQ.OTHER (44_control_transfer.md R254): the hooks are asked in registration order. Where all decline, or there is
none, Stall0 ("Unrecognized requests always stall"), and REQ.DISPATCH of such a code ends Idle (R243); the first that
does not decline ends the request: its reply is stored in `reply_buf` and sent by EP0.SEND, whatever its length, a
deferring hook arms nothing; a reply longer than `REPLY_BUF_SIZE` is refused. A hook's calls run and its timer value
is set whatever it answers. The first part is over any answers, the calls' effect being their own; the others are over
hooks that make no call. The hooks' answers are inputs (log 11); that Stall0 closes the transfer (`transferOpen` false)
is the model's own record (log 18). -/
def Obligations.OtherRequestsAskHooks : Prop :=
  (∀ (s u : State) (b bm : Byte) (pre rest : List ClassAnswer), s.env.classAnswers = pre ++ rest →
    (∀ a ∈ pre, a.outcome = .notHandled) → forEach askHook pre s = .next u →
    (pre.length = s.cfg.numClassHooks → exec (.reqOther b bm) s = .next (stalledEp0 u)) ∧
    (pre.length < s.cfg.numClassHooks → rest = [] → exec (.reqOther b bm) s = .next (stalledEp0 u)) ∧
    (∀ (a : ClassAnswer) (v : State), pre.length < s.cfg.numClassHooks → rest.head? = some a →
      askHook a u = .next v →
      (a.outcome = .deferred → exec (.reqOther b bm) s = .next v) ∧
      (∀ bytes, a.outcome = .reply bytes →
        (bytes.length ≤ s.cfg.replyBufSize → bytes.length < 2 ^ 32 →
          ∃ t, exec (.reqOther b bm) s = .next t ∧ exec (.ep0Send s.cfg.replyAddr (BitVec.ofNat 32 bytes.length))
            (v.store s.cfg.replyAddr bytes) = .next t) ∧
        (s.cfg.replyBufSize < bytes.length → exec (.reqOther b bm) s = .refused .replyTooLong)))) ∧
  (∀ (s : State) (b bm : Byte) (tms : List (Option Nat)) (pre rest : List ClassAnswer) (u : State),
    pre = tms.map (fun tm => ⟨[], .notHandled, tm⟩) → s.env.classAnswers = pre ++ rest →
    (∀ n, some n ∈ tms → n ≤ s.cfg.timerMax) →
    u = { s with
      ctx := { s.ctx with rebootTimer := tms.foldl (fun n tm => tm.getD n) s.ctx.rebootTimer },
      env := { s.env with classAnswers := rest } } →
    forEach askHook pre s = .next u ∧
    (tms.length = s.cfg.numClassHooks → exec (.reqOther b bm) s = .next (stalledEp0 u) ∧
      (classifyRequest s.cfg s.ep0.setup.bRequest s.ep0.setup.bmRequestType = .other →
        exec .reqDispatch s = .next { stalledEp0 u with
          ep0 := { s.ep0 with phase := .idle, transferOpen := false } })) ∧
    (∀ (bytes : List Byte) (tm : Option Nat) (rest' : List ClassAnswer), tms.length < s.cfg.numClassHooks →
      rest = ⟨[], .reply bytes, tm⟩ :: rest' → (∀ n, tm = some n → n ≤ s.cfg.timerMax) →
      bytes.length ≤ s.cfg.replyBufSize → s.memCanonical → s.cfg.replyAddr.toNat + bytes.length ≤ 2 ^ 32 →
      ∃ t, exec (.reqOther b bm) s = .next t ∧ HoldsBytes t s.cfg.replyAddr bytes ∧
        SameBytesOutside s.cfg.replyAddr bytes.length s t ∧
        (min bytes.length s.ep0.setup.wLength.toNat < s.cfg.ep0Size →
          ArmedOne s t s.cfg.replyAddr (min bytes.length s.ep0.setup.wLength.toNat)) ∧
        SameSlotsBut [slotOf 0 .tx .even, slotOf 0 .tx .odd] s t ∧
        t = { s with
          bdt := t.bdt, ep0 := t.ep0, mem := t.mem,
          ctx := { s.ctx with rebootTimer := tm.getD u.ctx.rebootTimer },
          env := { s.env with classAnswers := rest' } }) ∧
    (∀ (tm : Option Nat) (rest' : List ClassAnswer), tms.length < s.cfg.numClassHooks →
      rest = ⟨[], .deferred, tm⟩ :: rest' → (∀ n, tm = some n → n ≤ s.cfg.timerMax) →
      exec (.reqOther b bm) s = .next { s with
        ctx := { s.ctx with rebootTimer := tm.getD u.ctx.rebootTimer },
        env := { s.env with classAnswers := rest' } }))

/-! ## The dispatcher -/

/-- IRQ.RESET writes exactly the list of 45_dispatcher.md R310: bank pointers EVEN, endpoint 0's four slots,
`ENDPT[0]`, the flags, `ADDR`, the enables, `CTL`, the phase; everything else is kept (70_reset_and_hazards.md
R383). A leftover status entry is discarded (log 36). That no transfer is open after it is the model's own record
(`transferOpen`, log 18). -/
def Obligations.IrqResetProcedure : Prop :=
  ∀ s : State, ∃ t, exec .irqReset s = .next t ∧
    (∀ e d, t.bankOf e d = .even) ∧
    t.slot (slotOf 0 .rx .even) = ⟨armedWord (BitVec.ofNat 10 s.cfg.ep0Size) .data0, s.cfg.ep0RxAddrEven⟩ ∧
    t.slot (slotOf 0 .rx .odd) = ⟨armedWord (BitVec.ofNat 10 s.cfg.ep0Size) .data0, s.cfg.ep0RxAddrOdd⟩ ∧
    t.slot (slotOf 0 .tx .even) = ⟨0, (s.slot (slotOf 0 .tx .even)).addr⟩ ∧
    t.slot (slotOf 0 .tx .odd) = ⟨0, (s.slot (slotOf 0 .tx .odd)).addr⟩ ∧
    SameSlotsBut [slotOf 0 .rx .even, slotOf 0 .rx .odd, slotOf 0 .tx .even, slotOf 0 .tx .odd] s t ∧
    t.endptReg 0 = 0x0D ∧ SameEndptBut [0] s t ∧ t.regs.errStat = 0 ∧ t.istatReg = 0 ∧
    t.regs.errEn = 0xFF ∧ t.regs.intEn = 0x9F ∧ t.ctlReg = 0x01 ∧ t.regs.statFifo = [] ∧
    t.ep0 = { s.ep0 with txBank := .even, phase := .idle, transferOpen := false } ∧
    t = { s with
      regs := { t.regs with bdtPage := s.regs.bdtPage, otgIstat := s.regs.otgIstat, addr := 0 },
      bdt := t.bdt, hwBank := t.hwBank, ep0 := t.ep0 } ∧ SameBytes s t

/-- IRQ.SOF (45_dispatcher.md R302), where `TICK_HOOK` is a no-op: not configured, only the flag is cleared;
configured, `reboot_timer` counts down and `REBOOT_TRIGGER` is emitted in the step from 1 to 0. -/
def Obligations.IrqSofCountsDown : Prop :=
  ∀ s : State, s.env.tickScripts = [] →
    (s.ep0.configuration = 0 ∨ s.ctx.rebootTimer = 0 → exec .irqSof s = .next (s.clearIstat 0x04)) ∧
    (s.ep0.configuration ≠ 0 → 1 < s.ctx.rebootTimer → exec .irqSof s =
      .next { s.clearIstat 0x04 with ctx := { s.ctx with rebootTimer := s.ctx.rebootTimer - 1 } }) ∧
    (s.ep0.configuration ≠ 0 → s.ctx.rebootTimer = 1 → exec .irqSof s = .next { s.clearIstat 0x04 with
      ctx := { s.ctx with rebootTimer := 0 },
      env := { s.env with out := s.env.out ++ [.rebootTrigger] } }) ∧
    (s.clearIstat 0x04).istatReg = s.istatReg &&& 0xFB ∧
    s.clearIstat 0x04 = { s with regs := { s.regs with istat := s.regs.istat &&& 0xFB } }

/-- EP0.STALL writes `ENDPT[0]` = 0x0F (44_control_transfer.md R262); IRQ.STALL writes it back to 0x0D and clears
the flag (45_dispatcher.md R311); IRQ.ERROR snapshots and clears `ERRSTAT` (R312); IRQ.SLEEP clears its flag
(R313); resume and attach have no handler (R314). -/
def Obligations.StallAndFlagHandlers : Prop :=
  ∀ s : State,
    exec .ep0Stall s = .next { s with regs := { s.regs with endpt := s.regs.endpt.set 0 0x0F } } ∧
    exec .irqStall s = .next { s with regs := { s.regs with
      endpt := s.regs.endpt.set 0 0x0D, istat := s.regs.istat &&& 0x7F } } ∧
    exec .irqError s = .next { s with
      ctx := { s.ctx with errSnapshot := s.regs.errStat },
      regs := { s.regs with errStat := 0, istat := s.regs.istat &&& 0xFD } } ∧
    exec .irqSleep s = .next { s with regs := { s.regs with istat := s.regs.istat &&& 0xEF } } ∧
    exec .istResume s = .next s ∧ exec .istAttach s = .next s

/-- TXDONE releases the packet of the completed slot, then runs TX.COMPLETE (45_dispatcher.md R306); an address
that is no packet releases nothing (43_bank_allocator.md R219). ROUTE.TXDONE is the same for its status byte. R306 names
no exception: that a packet which another slot's waiting completion holds is refused is the model's deduction from
10_state.md R41 and 41_allocator.md R176 (log 16, DEDUCED). -/
def Obligations.TxDoneReleasesThenCompletes : Prop :=
  ∀ (s : State) (e : Ep) (b : Bank), 1 ≤ e.toNat → e.toNat ≤ s.cfg.nEp.toNat →
    (s.pktOfAddr (s.slot (slotOf e .tx b)).addr = none →
      ∃ t, exec (.txdone e b (slotOf e .tx b)) s = .next t ∧ exec (.routeTxdone (statOf e .tx b)) s = .next t ∧
        exec (.txComplete e b) s = .next t) ∧
    (∀ p : BitVec 16, s.pktOfAddr (s.slot (slotOf e .tx b)).addr = some p.toNat → s.pktLoose p.toNat = true →
      s.pktCompletingElse (slotOf e .tx b) p.toNat = false →
      (s.starvedTarget p.toNat = none ∨ s.ep0.configuration = 0) →
      ∃ t, exec (.txdone e b (slotOf e .tx b)) s = .next t ∧ exec (.routeTxdone (statOf e .tx b)) s = .next t ∧
        exec (.txComplete e b) (s.poolPut p.toNat) = .next t) ∧
    (∀ (p : BitVec 16) (f : Ep), s.pktOfAddr (s.slot (slotOf e .tx b)).addr = some p.toNat →
      s.pktLoose p.toNat = true → s.pktCompletingElse (slotOf e .tx b) p.toNat = false →
      s.starvedTarget p.toNat = some f → s.ep0.configuration ≠ 0 →
      ∃ t u, exec (.redirect f p) s = .next u ∧ exec (.txComplete e b) u = .next t ∧
        exec (.txdone e b (slotOf e .tx b)) s = .next t ∧ exec (.routeTxdone (statOf e .tx b)) s = .next t) ∧
    (∀ p : Nat, s.pktOfAddr (s.slot (slotOf e .tx b)).addr = some p →
      s.pktCompletingElse (slotOf e .tx b) p = true →
      exec (.txdone e b (slotOf e .tx b)) s = .refused .packetBusy ∧
      exec (.routeTxdone (statOf e .tx b)) s = .refused .packetBusy)

/-- RXDONE with byte count 0 re-arms the same buffer (45_dispatcher.md R307); above 0 it queues the packet with its
length and arms the slot with the packet ALLOC gives, which leaves the free structure, or leaves it Unarmed and the
endpoint starved; it is refused where the address is no packet buffer (R308). ROUTE.RXDONE.ZERO and ROUTE.RXDONE.DATA
are the same for their status byte. -/
def Obligations.RxDoneQueuesAndReplaces : Prop :=
  ∀ (s : State) (e : Ep) (b : Bank) (k : SlotIx), k = slotOf e .rx b → 1 ≤ e.toNat → e.toNat ≤ s.cfg.nEp.toNat →
    (descCount (s.slot k).desc = 0 →
      exec (.rxdone e b k) s = .next { s with
        bdt := s.bdt.set k ⟨armedWord (BitVec.ofNat 10 s.cfg.pktCap) b.toggle, (s.slot k).addr⟩ } ∧
      exec (.routeRxdoneZero (statOf e .rx b)) s = .next { s with
        bdt := s.bdt.set k ⟨armedWord (BitVec.ofNat 10 s.cfg.pktCap) b.toggle, (s.slot k).addr⟩ }) ∧
    (descCount (s.slot k).desc ≠ 0 → s.pktOfAddr (s.slot k).addr = none →
      exec (.rxdone e b k) s = .refused .completionNotPacket) ∧
    (∀ (p n : Nat) (u v : State) (q : Option Nat), n = (descCount (s.slot k).desc).toNat → 0 < n →
      s.pktOfAddr (s.slot k).addr = some p → s.pktQueued p = false → s.pktFree p = false →
      u = s.setPkt p ⟨n, 0, (s.pkt p).owner⟩ → u.allocate (e.setWidth 8) = (q, v) →
      ∃ t, exec (.rxdone e b k) s = .next t ∧ exec (.routeRxdoneData (statOf e .rx b)) s = .next t ∧
        t.pool = v.pool ∧ t.pkt p = ⟨n, 0, (s.pkt p).owner⟩ ∧ SameHeadersBut (p :: q.toList) s t ∧
        (∀ i, q = some i → match s.cfg.allocStrategy with
          | .sharedBitmap => s.pktFree i = true ∧ t.pktFree i = false
          | .segregated => s.pool.freeList.get e = i :: t.pool.freeList.get e) ∧
        t.slot k = (match q with
          | some i => ⟨armedWord (BitVec.ofNat 10 s.cfg.pktCap) b.toggle, s.cfg.bufAddrs.getD i 0⟩
          | none => ⟨0, (s.slot k).addr⟩) ∧
        SameSlotsBut [k] s t ∧
        t.endpoint e = { s.endpoint e with
          rxq := (s.endpoint e).rxq ++ [p],
          rxBytes := (s.endpoint e).rxBytes + n,
          starved := q = none || (s.endpoint e).starved } ∧
        SameEndpointsBut [e] s t ∧ t = { s with bdt := t.bdt, pool := t.pool, eps := t.eps } ∧ SameBytes s t)

/-- The remaining routes and token kinds: a status byte above `N_EP` is ignored and its entry popped
(45_dispatcher.md R303, R304); a completion of endpoint 0 goes to EP0.HANDLE (44_control_transfer.md R240), which
drains an IN and does nothing but clear the suspend for an unknown token kind (30_encoding.md R115). -/
def Obligations.RoutesOfStatusBytes : Prop :=
  (∀ (s : State) (st : Byte), s.cfg.nEp.toNat < (statEp st).toNat →
    exec (.route st) s = .next s ∧ exec (.routeIgnore st) s = .next s ∧
    (∀ rest, s.regs.statFifo = st :: rest → exec .irqTokdne s = .next { s with regs := { s.regs with
      istat := s.regs.istat &&& 0xF7, statFifo := rest } })) ∧
  (∀ (s : State) (b : Bank), s.tokOf (slotOf 0 .tx b) = 0x9 →
    ∃ t, exec (.tokIn (slotOf 0 .tx b)) s = .next t ∧ exec (.ep0Handle (statOf 0 .tx b)) s = .next t ∧
      exec (.routeEp0 (statOf 0 .tx b)) s = .next t ∧ exec (.route (statOf 0 .tx b)) s = .next t ∧
      (∀ rest, s.regs.statFifo = statOf 0 .tx b :: rest →
        exec .irqTokdne s = .next (t.clearIstat 0x08))) ∧
  (∀ (s : State) (d : Dir) (b : Bank) (tok : BitVec 4), tok ≠ 0x1 → tok ≠ 0x9 → tok ≠ 0xD →
    exec (.tokOther (slotOf 0 d b) tok) s = .next (resumed s) ∧
    (s.tokOf (slotOf 0 d b) = tok → exec (.ep0Handle (statOf 0 d b)) s = .next (resumed s) ∧
      exec (.routeEp0 (statOf 0 d b)) s = .next (resumed s)))

/-- IRQ.ENTRY (45_dispatcher.md R300; 60_exceptions.md R346, R349): it starts only when the line is asserted,
`irq_mask` is false and the handler does not run; taking it changes nothing but `in_isr` (and the dispatcher's own
position, log 8), and the first condition is handled in the same ISR step (R351). -/
def Obligations.IrqEntryTakesInterrupt : Prop :=
  ∀ s : State,
    (s.ctx.inIsr = false → (s.ctx.irqMask = true ∨ s.istatReg &&& s.regs.intEn = 0) →
      exec .irqEntry s = .next s) ∧
    (s.ctx.inIsr = true → exec .irqEntry s = s.isrStep) ∧
    (s.ctx.inIsr = false → s.ctx.irqMask = false → s.istatReg &&& s.regs.intEn ≠ 0 →
      exec .irqEntry s = State.isrStep { s with ctx := { s.ctx with
        inIsr := true, isrPoint := .top, isrStatus := 0 } } ∧
      (decodeIst s.istatReg = some .irqReset → ∃ t, exec .irqReset s = .next t ∧
        exec .irqEntry s = .next { t with ctx := { t.ctx with
          inIsr := false, isrPoint := .top, isrStatus := 0 } }))

/-- Who changes the device address and the configuration value, over all instructions: `ADDR` changes only in
BUS.INIT, in IRQ.RESET and in the IN completion that applies a pending address (10_state.md R25,
44_control_transfer.md R265), `configuration` only in BUS.INIT and SET_CONFIGURATION (10_state.md R52), and in
whatever runs one of these. -/
def Obligations.WhoChangesAddressAndConfiguration : Prop :=
  ∀ (i : Instr) (s t : State), exec i s = .next t →
    (t.regs.addr ≠ s.regs.addr →
      i ∈ [.busInit, .irqEntry, .irqTokdne, .irqReset] ∨
      (∃ st, i = .route st ∨ i = .routeEp0 st ∨ i = .ep0Handle st) ∨ ∃ k, i = .tokIn k ∨ i = .ep0In k) ∧
    (t.ep0.configuration ≠ s.ep0.configuration →
      i ∈ [.busInit, .irqEntry, .irqTokdne, .reqSetConfiguration, .reqDispatch] ∨
      (∃ st, i = .route st ∨ i = .routeEp0 st ∨ i = .ep0Handle st) ∨ ∃ k, i = .tokSetup k ∨ i = .ep0Setup k)

end
end

