-- ==== Sys2Proof/Laws/Decode.lean ====
section
/-! SUPPORT. Laws of the decoders: which instructions each one can answer. -/

namespace Sys2Proof

/-- An instruction a trace line can spell: a command or a link event. -/
def IsTrace (i : Instr) : Prop := (encode i).1 = .cmd8 ∨ (encode i).1 = .link8

/-- Every answer of a reader is an answer of its constructor. -/
def Answers (P : Instr → Prop) (r : Except DecodeError (Instr × List Byte)) : Prop :=
  ∀ i rest, r = .ok (i, rest) → P i

theorem Answers.ok {P : Instr → Prop} {i : Instr} {bs : List Byte} (h : P i) : Answers P (.ok (i, bs)) := by
  intro j rest e; injection e with e; injection e with e1; exact e1 ▸ h

theorem Answers.error {P : Instr → Prop} (e : DecodeError) : Answers P (.error e) := fun _ _ h => by injection h

theorem Answers.map {α : Type} {P : Instr → Prop} {r : Except DecodeError α} {f : α → Instr × List Byte}
    (h : ∀ a, P (f a).1) : Answers P (r.map f) := by
  intro i rest e
  cases r with
  | error x => simp [Except.map] at e
  | ok a => simp only [Except.map, Except.ok.injEq] at e; have := h a; rw [e] at this; exact this

theorem Answers.bind {α : Type} {P : Instr → Prop} {r : Except DecodeError α}
    {f : α → Except DecodeError (Instr × List Byte)} (h : ∀ a, Answers P (f a)) : Answers P (r.bind f) := by
  cases r with
  | error x => exact .error x
  | ok a => exact h a

theorem answers_readEp {P : Instr → Prop} {k : Byte → Instr} (h : ∀ a, P (k a)) (bs : List Byte) :
    Answers P (readEp k bs) := by
  unfold readEp; split
  · exact .ok (h _)
  · exact .error _

theorem answers_readPkt {P : Instr → Prop} {k : BitVec 16 → Instr} (h : ∀ a, P (k a)) (bs : List Byte) :
    Answers P (readPkt k bs) := by
  unfold readPkt; split
  · exact .ok (h _)
  · exact .error _

theorem answers_readEpPkt {P : Instr → Prop} {k : Byte → BitVec 16 → Instr} (h : ∀ a b, P (k a b))
    (bs : List Byte) : Answers P (readEpPkt k bs) := by
  unfold readEpPkt; split
  · exact .ok (h _ _)
  · exact .error _

theorem answers_readEpAddrCount {P : Instr → Prop} {k : Byte → Word → BitVec 10 → Instr}
    (h : ∀ a b c, P (k a b c)) (bs : List Byte) : Answers P (readEpAddrCount k bs) := by
  unfold readEpAddrCount; split
  · exact .map fun _ => h _ _ _
  · exact .error _

theorem answers_readAddrCount {P : Instr → Prop} {k : Word → BitVec 10 → Instr} (h : ∀ a b, P (k a b))
    (bs : List Byte) : Answers P (readAddrCount k bs) := by
  unfold readAddrCount; split
  · exact .map fun _ => h _ _
  · exact .error _

theorem answers_readWord {P : Instr → Prop} {k : Word → Instr} (h : ∀ a, P (k a)) (bs : List Byte) :
    Answers P (readWord k bs) := by
  unfold readWord; split
  · exact .ok (h _)
  · exact .error _

theorem answers_readEpDir {P : Instr → Prop} {k : Byte → Dir → Instr} (h : ∀ a b, P (k a b)) (bs : List Byte) :
    Answers P (readEpDir k bs) := by
  unfold readEpDir; split
  · exact .map fun _ => h _ _
  · exact .error _

theorem answers_readEpDirBank {P : Instr → Prop} {k : Byte → Dir → Bank → Instr} (h : ∀ a b c, P (k a b c))
    (bs : List Byte) : Answers P (readEpDirBank k bs) := by
  unfold readEpDirBank; split
  · exact .bind fun _ => .map fun _ => h _ _ _
  · exact .error _

theorem answers_readBdtWrite {P : Instr → Prop} (h : ∀ a b c d e f, P (.bdtWrite a b c d e f)) (bs : List Byte) :
    Answers P (readBdtWrite bs) := by
  unfold readBdtWrite; split
  · exact .bind fun _ => .bind fun _ => .bind fun _ => .map fun _ => h _ _ _ _ _ _
  · exact .error _

theorem answers_readLinkOut {P : Instr → Prop} (h : ∀ a b c, P (.linkOut a b c)) (bs : List Byte) :
    Answers P (readLinkOut bs) := by
  unfold readLinkOut; split
  · exact .bind fun _ => .bind fun _ => .map fun _ => h _ _ _
  · exact .error _

theorem Answers.ite {P : Instr → Prop} {c : Prop} [Decidable c] {a b : Except DecodeError (Instr × List Byte)}
    (ha : Answers P a) (hb : Answers P b) : Answers P (if c then a else b) := by split <;> assumption

/-- A trace decodes to commands and link events only. -/
theorem decodeTrace_isTrace (c : Config) (bs : List Byte) : Answers IsTrace (decodeTrace c bs) := by
  cases bs with
  | nil => exact .error _
  | cons code bs =>
    exact
      .ite (.ok (.inl rfl)) <| .ite (.ok (.inl rfl)) <|
      .ite (by split <;> exact answers_readEp (fun _ => .inl rfl) _) <|
      .ite (answers_readPkt (fun _ => .inl rfl) _) <| .ite (answers_readEpPkt (fun _ _ => .inl rfl) _) <|
      .ite (answers_readEpAddrCount (fun _ _ _ => .inl rfl) _) <|
      .ite (answers_readEp (fun _ => .inl rfl) _) <| .ite (answers_readEp (fun _ => .inl rfl) _) <|
      .ite (answers_readEp (fun _ => .inl rfl) _) <| .ite (answers_readEp (fun _ => .inl rfl) _) <|
      .ite (.ok (.inl rfl)) <| .ite (.ok (.inl rfl)) <|
      .ite (answers_readAddrCount (fun _ _ => .inl rfl) _) <| .ite (answers_readWord (fun _ => .inl rfl) _) <|
      .ite (answers_readBdtWrite (fun _ _ _ _ _ _ => .inl rfl) _) <|
      .ite (answers_readEpDirBank (fun _ _ _ => .inl rfl) _) <|
      .ite (.map fun _ => .inr rfl) <| .ite (answers_readLinkOut (fun _ _ _ => .inr rfl) _) <|
      .ite (answers_readEp (fun _ => .inr rfl) _) <| .ite (.ok (.inr rfl)) <| .ite (.ok (.inr rfl)) <|
      .ite (answers_readEp (fun _ => .inr rfl) _) <| .ite (.ok (.inr rfl)) <|
      .ite (answers_readEp (fun _ => .inr rfl) _) <|
      .ite (answers_readEpDir (fun _ _ => .inr rfl) _) <| .error _

/-- A trace line decodes to a command or a link event. -/
theorem decodeLine_isTrace {c : Config} {bs : List Byte} {i : Instr} (h : decodeLine c bs = .ok i) : IsTrace i := by
  have hd := decodeTrace_isTrace c bs
  unfold decodeLine at h
  split at h
  · injection h with h; exact h ▸ hd _ _ ‹_›
  · injection h
  · injection h

/-- A descriptor word decodes to a descriptor form. -/
theorem decodeDesc_isDesc (k : SlotIx) (w : Word) : (encode (decodeDesc k w)).1 = .desc32 := by
  unfold decodeDesc
  split <;> rfl

/-- `ep(s) = s >> 2`, `dir(s) = s[1]`, `bank(s) = s[0]` (spec/30_encoding.md R101). -/
@[simp] theorem slotEp_slotOf (e : Ep) (d : Dir) (b : Bank) : slotEp (slotOf e d b) = e := by
  cases d <;> cases b <;> (revert e; decide)

@[simp] theorem slotDir_slotOf (e : Ep) (d : Dir) (b : Bank) : slotDir (slotOf e d b) = d := by
  cases d <;> cases b <;> (revert e; decide)

@[simp] theorem slotBank_slotOf (e : Ep) (d : Dir) (b : Bank) : slotBank (slotOf e d b) = b := by
  cases d <;> cases b <;> (revert e; decide)

/-- The numbers of R116 are read back. -/
theorem txState_ofNumber_number (v : TxState) : TxState.ofNumber v.number = some v := by cases v <;> rfl

end Sys2Proof
end

