-- ==== Sys2Proof/Laws/Word.lean ====
section
/-! SUPPORT. Laws of the fixed-size arrays: reading after writing and after filling. -/

namespace Sys2Proof

@[simp] theorem Tab.get_set_self {w : Nat} {α : Type} (t : Tab w α) (i : BitVec w) (v : α) :
    (t.set i v).get i = v := by
  simp [Tab.get, Tab.set]

theorem Tab.get_set_ne {w : Nat} {α : Type} (t : Tab w α) {i j : BitVec w} (v : α) (h : i ≠ j) :
    (t.set i v).get j = t.get j := by
  have hn : i.toNat ≠ j.toNat := fun e => h (BitVec.eq_of_toNat_eq e)
  simp [Tab.get, Tab.set, hn]

theorem Tab.get_set {w : Nat} {α : Type} (t : Tab w α) (i j : BitVec w) (v : α) :
    (t.set i v).get j = if i = j then v else t.get j := by
  split
  · subst_vars; exact Tab.get_set_self t _ v
  · exact Tab.get_set_ne t v ‹_›

@[simp] theorem Tab.get_fill {w : Nat} {α : Type} (v : α) (i : BitVec w) :
    (Tab.fill v : Tab w α).get i = v := by
  simp [Tab.get, Tab.fill]

end Sys2Proof
end

