-- ==== Sys2Proof/Laws/State.lean ====
section
/-! SUPPORT. The small laws of the state's updates: one lemma per field per update, and reading a slot, a
record, a register or a header after writing one. -/

namespace Sys2Proof.Machine

variable (s : State)

/-! ### setSlot -/

@[simp] theorem State.setSlot_cfg (k : SlotIx) (v : Slot) : (s.setSlot k v).cfg = s.cfg := rfl
@[simp] theorem State.setSlot_regs (k : SlotIx) (v : Slot) : (s.setSlot k v).regs = s.regs := rfl
@[simp] theorem State.setSlot_bdt (k : SlotIx) (v : Slot) : (s.setSlot k v).bdt = s.bdt.set k v := rfl
@[simp] theorem State.setSlot_hwBank (k : SlotIx) (v : Slot) : (s.setSlot k v).hwBank = s.hwBank := rfl
@[simp] theorem State.setSlot_pool (k : SlotIx) (v : Slot) : (s.setSlot k v).pool = s.pool := rfl
@[simp] theorem State.setSlot_eps (k : SlotIx) (v : Slot) : (s.setSlot k v).eps = s.eps := rfl
@[simp] theorem State.setSlot_ep0 (k : SlotIx) (v : Slot) : (s.setSlot k v).ep0 = s.ep0 := rfl
@[simp] theorem State.setSlot_ctx (k : SlotIx) (v : Slot) : (s.setSlot k v).ctx = s.ctx := rfl
@[simp] theorem State.setSlot_mem (k : SlotIx) (v : Slot) : (s.setSlot k v).mem = s.mem := rfl
@[simp] theorem State.setSlot_env (k : SlotIx) (v : Slot) : (s.setSlot k v).env = s.env := rfl

/-! ### setDesc -/

@[simp] theorem State.setDesc_cfg (k : SlotIx) (d : Word) : (s.setDesc k d).cfg = s.cfg := rfl
@[simp] theorem State.setDesc_regs (k : SlotIx) (d : Word) : (s.setDesc k d).regs = s.regs := rfl
@[simp] theorem State.setDesc_bdt (k : SlotIx) (d : Word) : (s.setDesc k d).bdt = s.bdt.set k ⟨d, (s.slot k).addr⟩ := rfl
@[simp] theorem State.setDesc_hwBank (k : SlotIx) (d : Word) : (s.setDesc k d).hwBank = s.hwBank := rfl
@[simp] theorem State.setDesc_pool (k : SlotIx) (d : Word) : (s.setDesc k d).pool = s.pool := rfl
@[simp] theorem State.setDesc_eps (k : SlotIx) (d : Word) : (s.setDesc k d).eps = s.eps := rfl
@[simp] theorem State.setDesc_ep0 (k : SlotIx) (d : Word) : (s.setDesc k d).ep0 = s.ep0 := rfl
@[simp] theorem State.setDesc_ctx (k : SlotIx) (d : Word) : (s.setDesc k d).ctx = s.ctx := rfl
@[simp] theorem State.setDesc_mem (k : SlotIx) (d : Word) : (s.setDesc k d).mem = s.mem := rfl
@[simp] theorem State.setDesc_env (k : SlotIx) (d : Word) : (s.setDesc k d).env = s.env := rfl

/-! ### arm -/

@[simp] theorem State.arm_cfg (ep : Ep) (d : Dir) (b : Bank) (n : BitVec 10) (t : Toggle) (a : Word) : (s.arm ep d b n t a).cfg = s.cfg := rfl
@[simp] theorem State.arm_regs (ep : Ep) (d : Dir) (b : Bank) (n : BitVec 10) (t : Toggle) (a : Word) : (s.arm ep d b n t a).regs = s.regs := rfl
@[simp] theorem State.arm_bdt (ep : Ep) (d : Dir) (b : Bank) (n : BitVec 10) (t : Toggle) (a : Word) : (s.arm ep d b n t a).bdt = s.bdt.set (slotOf ep d b) ⟨armedWord n t, a⟩ := rfl
@[simp] theorem State.arm_hwBank (ep : Ep) (d : Dir) (b : Bank) (n : BitVec 10) (t : Toggle) (a : Word) : (s.arm ep d b n t a).hwBank = s.hwBank := rfl
@[simp] theorem State.arm_pool (ep : Ep) (d : Dir) (b : Bank) (n : BitVec 10) (t : Toggle) (a : Word) : (s.arm ep d b n t a).pool = s.pool := rfl
@[simp] theorem State.arm_eps (ep : Ep) (d : Dir) (b : Bank) (n : BitVec 10) (t : Toggle) (a : Word) : (s.arm ep d b n t a).eps = s.eps := rfl
@[simp] theorem State.arm_ep0 (ep : Ep) (d : Dir) (b : Bank) (n : BitVec 10) (t : Toggle) (a : Word) : (s.arm ep d b n t a).ep0 = s.ep0 := rfl
@[simp] theorem State.arm_ctx (ep : Ep) (d : Dir) (b : Bank) (n : BitVec 10) (t : Toggle) (a : Word) : (s.arm ep d b n t a).ctx = s.ctx := rfl
@[simp] theorem State.arm_mem (ep : Ep) (d : Dir) (b : Bank) (n : BitVec 10) (t : Toggle) (a : Word) : (s.arm ep d b n t a).mem = s.mem := rfl
@[simp] theorem State.arm_env (ep : Ep) (d : Dir) (b : Bank) (n : BitVec 10) (t : Toggle) (a : Word) : (s.arm ep d b n t a).env = s.env := rfl

/-! ### store -/

@[simp] theorem State.store_cfg (a : Word) (bs : List Byte) : (s.store a bs).cfg = s.cfg := rfl
@[simp] theorem State.store_regs (a : Word) (bs : List Byte) : (s.store a bs).regs = s.regs := rfl
@[simp] theorem State.store_bdt (a : Word) (bs : List Byte) : (s.store a bs).bdt = s.bdt := rfl
@[simp] theorem State.store_hwBank (a : Word) (bs : List Byte) : (s.store a bs).hwBank = s.hwBank := rfl
@[simp] theorem State.store_pool (a : Word) (bs : List Byte) : (s.store a bs).pool = s.pool := rfl
@[simp] theorem State.store_eps (a : Word) (bs : List Byte) : (s.store a bs).eps = s.eps := rfl
@[simp] theorem State.store_ep0 (a : Word) (bs : List Byte) : (s.store a bs).ep0 = s.ep0 := rfl
@[simp] theorem State.store_ctx (a : Word) (bs : List Byte) : (s.store a bs).ctx = s.ctx := rfl
@[simp] theorem State.store_mem (a : Word) (bs : List Byte) : (s.store a bs).mem = memWrite s.mem a bs := rfl
@[simp] theorem State.store_env (a : Word) (bs : List Byte) : (s.store a bs).env = s.env := rfl

/-! ### setEndpoint -/

@[simp] theorem State.setEndpoint_cfg (ep : Ep) (v : Endpoint) : (s.setEndpoint ep v).cfg = s.cfg := rfl
@[simp] theorem State.setEndpoint_regs (ep : Ep) (v : Endpoint) : (s.setEndpoint ep v).regs = s.regs := rfl
@[simp] theorem State.setEndpoint_bdt (ep : Ep) (v : Endpoint) : (s.setEndpoint ep v).bdt = s.bdt := rfl
@[simp] theorem State.setEndpoint_hwBank (ep : Ep) (v : Endpoint) : (s.setEndpoint ep v).hwBank = s.hwBank := rfl
@[simp] theorem State.setEndpoint_pool (ep : Ep) (v : Endpoint) : (s.setEndpoint ep v).pool = s.pool := rfl
@[simp] theorem State.setEndpoint_eps (ep : Ep) (v : Endpoint) : (s.setEndpoint ep v).eps = s.eps.set ep v := rfl
@[simp] theorem State.setEndpoint_ep0 (ep : Ep) (v : Endpoint) : (s.setEndpoint ep v).ep0 = s.ep0 := rfl
@[simp] theorem State.setEndpoint_ctx (ep : Ep) (v : Endpoint) : (s.setEndpoint ep v).ctx = s.ctx := rfl
@[simp] theorem State.setEndpoint_mem (ep : Ep) (v : Endpoint) : (s.setEndpoint ep v).mem = s.mem := rfl
@[simp] theorem State.setEndpoint_env (ep : Ep) (v : Endpoint) : (s.setEndpoint ep v).env = s.env := rfl

/-! ### setPkt -/

@[simp] theorem State.setPkt_cfg (i : Nat) (v : Pkt) : (s.setPkt i v).cfg = s.cfg := rfl
@[simp] theorem State.setPkt_regs (i : Nat) (v : Pkt) : (s.setPkt i v).regs = s.regs := rfl
@[simp] theorem State.setPkt_bdt (i : Nat) (v : Pkt) : (s.setPkt i v).bdt = s.bdt := rfl
@[simp] theorem State.setPkt_hwBank (i : Nat) (v : Pkt) : (s.setPkt i v).hwBank = s.hwBank := rfl
@[simp] theorem State.setPkt_eps (i : Nat) (v : Pkt) : (s.setPkt i v).eps = s.eps := rfl
@[simp] theorem State.setPkt_ep0 (i : Nat) (v : Pkt) : (s.setPkt i v).ep0 = s.ep0 := rfl
@[simp] theorem State.setPkt_ctx (i : Nat) (v : Pkt) : (s.setPkt i v).ctx = s.ctx := rfl
@[simp] theorem State.setPkt_mem (i : Nat) (v : Pkt) : (s.setPkt i v).mem = s.mem := rfl
@[simp] theorem State.setPkt_env (i : Nat) (v : Pkt) : (s.setPkt i v).env = s.env := rfl

/-! ### emit -/

@[simp] theorem State.emit_cfg (e : Event) : (s.emit e).cfg = s.cfg := rfl
@[simp] theorem State.emit_regs (e : Event) : (s.emit e).regs = s.regs := rfl
@[simp] theorem State.emit_bdt (e : Event) : (s.emit e).bdt = s.bdt := rfl
@[simp] theorem State.emit_hwBank (e : Event) : (s.emit e).hwBank = s.hwBank := rfl
@[simp] theorem State.emit_pool (e : Event) : (s.emit e).pool = s.pool := rfl
@[simp] theorem State.emit_eps (e : Event) : (s.emit e).eps = s.eps := rfl
@[simp] theorem State.emit_ep0 (e : Event) : (s.emit e).ep0 = s.ep0 := rfl
@[simp] theorem State.emit_ctx (e : Event) : (s.emit e).ctx = s.ctx := rfl
@[simp] theorem State.emit_mem (e : Event) : (s.emit e).mem = s.mem := rfl

/-! ### setResult -/

@[simp] theorem State.setResult_cfg (r : Result) : (s.setResult r).cfg = s.cfg := rfl
@[simp] theorem State.setResult_regs (r : Result) : (s.setResult r).regs = s.regs := rfl
@[simp] theorem State.setResult_bdt (r : Result) : (s.setResult r).bdt = s.bdt := rfl
@[simp] theorem State.setResult_hwBank (r : Result) : (s.setResult r).hwBank = s.hwBank := rfl
@[simp] theorem State.setResult_pool (r : Result) : (s.setResult r).pool = s.pool := rfl
@[simp] theorem State.setResult_eps (r : Result) : (s.setResult r).eps = s.eps := rfl
@[simp] theorem State.setResult_ep0 (r : Result) : (s.setResult r).ep0 = s.ep0 := rfl
@[simp] theorem State.setResult_ctx (r : Result) : (s.setResult r).ctx = s.ctx := rfl
@[simp] theorem State.setResult_mem (r : Result) : (s.setResult r).mem = s.mem := rfl

/-! ### enterIsr -/

@[simp] theorem State.enterIsr_cfg : (s.enterIsr).cfg = s.cfg := rfl
@[simp] theorem State.enterIsr_regs : (s.enterIsr).regs = s.regs := rfl
@[simp] theorem State.enterIsr_bdt : (s.enterIsr).bdt = s.bdt := rfl
@[simp] theorem State.enterIsr_hwBank : (s.enterIsr).hwBank = s.hwBank := rfl
@[simp] theorem State.enterIsr_pool : (s.enterIsr).pool = s.pool := rfl
@[simp] theorem State.enterIsr_eps : (s.enterIsr).eps = s.eps := rfl
@[simp] theorem State.enterIsr_ep0 : (s.enterIsr).ep0 = s.ep0 := rfl
@[simp] theorem State.enterIsr_mem : (s.enterIsr).mem = s.mem := rfl
@[simp] theorem State.enterIsr_env : (s.enterIsr).env = s.env := rfl

/-! ### leaveIsr -/

@[simp] theorem State.leaveIsr_cfg : (s.leaveIsr).cfg = s.cfg := rfl
@[simp] theorem State.leaveIsr_regs : (s.leaveIsr).regs = s.regs := rfl
@[simp] theorem State.leaveIsr_bdt : (s.leaveIsr).bdt = s.bdt := rfl
@[simp] theorem State.leaveIsr_hwBank : (s.leaveIsr).hwBank = s.hwBank := rfl
@[simp] theorem State.leaveIsr_pool : (s.leaveIsr).pool = s.pool := rfl
@[simp] theorem State.leaveIsr_eps : (s.leaveIsr).eps = s.eps := rfl
@[simp] theorem State.leaveIsr_ep0 : (s.leaveIsr).ep0 = s.ep0 := rfl
@[simp] theorem State.leaveIsr_mem : (s.leaveIsr).mem = s.mem := rfl
@[simp] theorem State.leaveIsr_env : (s.leaveIsr).env = s.env := rfl

/-! ### isrAt -/

@[simp] theorem State.isrAt_cfg (p : IsrPoint) (v : Byte) : (s.isrAt p v).cfg = s.cfg := rfl
@[simp] theorem State.isrAt_regs (p : IsrPoint) (v : Byte) : (s.isrAt p v).regs = s.regs := rfl
@[simp] theorem State.isrAt_bdt (p : IsrPoint) (v : Byte) : (s.isrAt p v).bdt = s.bdt := rfl
@[simp] theorem State.isrAt_hwBank (p : IsrPoint) (v : Byte) : (s.isrAt p v).hwBank = s.hwBank := rfl
@[simp] theorem State.isrAt_pool (p : IsrPoint) (v : Byte) : (s.isrAt p v).pool = s.pool := rfl
@[simp] theorem State.isrAt_eps (p : IsrPoint) (v : Byte) : (s.isrAt p v).eps = s.eps := rfl
@[simp] theorem State.isrAt_ep0 (p : IsrPoint) (v : Byte) : (s.isrAt p v).ep0 = s.ep0 := rfl
@[simp] theorem State.isrAt_mem (p : IsrPoint) (v : Byte) : (s.isrAt p v).mem = s.mem := rfl
@[simp] theorem State.isrAt_env (p : IsrPoint) (v : Byte) : (s.isrAt p v).env = s.env := rfl

/-! ### setEndptReg -/

@[simp] theorem State.setEndptReg_cfg (e : Ep) (v : Byte) : (s.setEndptReg e v).cfg = s.cfg := rfl
@[simp] theorem State.setEndptReg_bdt (e : Ep) (v : Byte) : (s.setEndptReg e v).bdt = s.bdt := rfl
@[simp] theorem State.setEndptReg_hwBank (e : Ep) (v : Byte) : (s.setEndptReg e v).hwBank = s.hwBank := rfl
@[simp] theorem State.setEndptReg_pool (e : Ep) (v : Byte) : (s.setEndptReg e v).pool = s.pool := rfl
@[simp] theorem State.setEndptReg_eps (e : Ep) (v : Byte) : (s.setEndptReg e v).eps = s.eps := rfl
@[simp] theorem State.setEndptReg_ep0 (e : Ep) (v : Byte) : (s.setEndptReg e v).ep0 = s.ep0 := rfl
@[simp] theorem State.setEndptReg_ctx (e : Ep) (v : Byte) : (s.setEndptReg e v).ctx = s.ctx := rfl
@[simp] theorem State.setEndptReg_mem (e : Ep) (v : Byte) : (s.setEndptReg e v).mem = s.mem := rfl
@[simp] theorem State.setEndptReg_env (e : Ep) (v : Byte) : (s.setEndptReg e v).env = s.env := rfl

/-! ### clearIstat -/

@[simp] theorem State.clearIstat_cfg (v : Byte) : (s.clearIstat v).cfg = s.cfg := rfl
@[simp] theorem State.clearIstat_bdt (v : Byte) : (s.clearIstat v).bdt = s.bdt := rfl
@[simp] theorem State.clearIstat_hwBank (v : Byte) : (s.clearIstat v).hwBank = s.hwBank := rfl
@[simp] theorem State.clearIstat_pool (v : Byte) : (s.clearIstat v).pool = s.pool := rfl
@[simp] theorem State.clearIstat_eps (v : Byte) : (s.clearIstat v).eps = s.eps := rfl
@[simp] theorem State.clearIstat_ep0 (v : Byte) : (s.clearIstat v).ep0 = s.ep0 := rfl
@[simp] theorem State.clearIstat_ctx (v : Byte) : (s.clearIstat v).ctx = s.ctx := rfl
@[simp] theorem State.clearIstat_mem (v : Byte) : (s.clearIstat v).mem = s.mem := rfl
@[simp] theorem State.clearIstat_env (v : Byte) : (s.clearIstat v).env = s.env := rfl

/-! ### raiseIstat -/

@[simp] theorem State.raiseIstat_cfg (v : Byte) : (s.raiseIstat v).cfg = s.cfg := rfl
@[simp] theorem State.raiseIstat_bdt (v : Byte) : (s.raiseIstat v).bdt = s.bdt := rfl
@[simp] theorem State.raiseIstat_hwBank (v : Byte) : (s.raiseIstat v).hwBank = s.hwBank := rfl
@[simp] theorem State.raiseIstat_pool (v : Byte) : (s.raiseIstat v).pool = s.pool := rfl
@[simp] theorem State.raiseIstat_eps (v : Byte) : (s.raiseIstat v).eps = s.eps := rfl
@[simp] theorem State.raiseIstat_ep0 (v : Byte) : (s.raiseIstat v).ep0 = s.ep0 := rfl
@[simp] theorem State.raiseIstat_ctx (v : Byte) : (s.raiseIstat v).ctx = s.ctx := rfl
@[simp] theorem State.raiseIstat_mem (v : Byte) : (s.raiseIstat v).mem = s.mem := rfl
@[simp] theorem State.raiseIstat_env (v : Byte) : (s.raiseIstat v).env = s.env := rfl

/-! ### pushStat -/

@[simp] theorem State.pushStat_cfg (v : Byte) : (s.pushStat v).cfg = s.cfg := rfl
@[simp] theorem State.pushStat_bdt (v : Byte) : (s.pushStat v).bdt = s.bdt := rfl
@[simp] theorem State.pushStat_hwBank (v : Byte) : (s.pushStat v).hwBank = s.hwBank := rfl
@[simp] theorem State.pushStat_pool (v : Byte) : (s.pushStat v).pool = s.pool := rfl
@[simp] theorem State.pushStat_eps (v : Byte) : (s.pushStat v).eps = s.eps := rfl
@[simp] theorem State.pushStat_ep0 (v : Byte) : (s.pushStat v).ep0 = s.ep0 := rfl
@[simp] theorem State.pushStat_ctx (v : Byte) : (s.pushStat v).ctx = s.ctx := rfl
@[simp] theorem State.pushStat_mem (v : Byte) : (s.pushStat v).mem = s.mem := rfl
@[simp] theorem State.pushStat_env (v : Byte) : (s.pushStat v).env = s.env := rfl

/-! ### clearErrStat -/

@[simp] theorem State.clearErrStat_cfg (v : Byte) : (s.clearErrStat v).cfg = s.cfg := rfl
@[simp] theorem State.clearErrStat_bdt (v : Byte) : (s.clearErrStat v).bdt = s.bdt := rfl
@[simp] theorem State.clearErrStat_hwBank (v : Byte) : (s.clearErrStat v).hwBank = s.hwBank := rfl
@[simp] theorem State.clearErrStat_pool (v : Byte) : (s.clearErrStat v).pool = s.pool := rfl
@[simp] theorem State.clearErrStat_eps (v : Byte) : (s.clearErrStat v).eps = s.eps := rfl
@[simp] theorem State.clearErrStat_ep0 (v : Byte) : (s.clearErrStat v).ep0 = s.ep0 := rfl
@[simp] theorem State.clearErrStat_ctx (v : Byte) : (s.clearErrStat v).ctx = s.ctx := rfl
@[simp] theorem State.clearErrStat_mem (v : Byte) : (s.clearErrStat v).mem = s.mem := rfl
@[simp] theorem State.clearErrStat_env (v : Byte) : (s.clearErrStat v).env = s.env := rfl

/-! ### writeCtl -/

@[simp] theorem State.writeCtl_cfg (v : Byte) : (s.writeCtl v).cfg = s.cfg := rfl
@[simp] theorem State.writeCtl_bdt (v : Byte) : (s.writeCtl v).bdt = s.bdt := rfl
@[simp] theorem State.writeCtl_hwBank (v : Byte) : (s.writeCtl v).hwBank = if v.getLsbD 1 then Tab.fill .even else s.hwBank := rfl
@[simp] theorem State.writeCtl_pool (v : Byte) : (s.writeCtl v).pool = s.pool := rfl
@[simp] theorem State.writeCtl_eps (v : Byte) : (s.writeCtl v).eps = s.eps := rfl
@[simp] theorem State.writeCtl_ep0 (v : Byte) : (s.writeCtl v).ep0 = s.ep0 := rfl
@[simp] theorem State.writeCtl_ctx (v : Byte) : (s.writeCtl v).ctx = s.ctx := rfl
@[simp] theorem State.writeCtl_mem (v : Byte) : (s.writeCtl v).mem = s.mem := rfl
@[simp] theorem State.writeCtl_env (v : Byte) : (s.writeCtl v).env = s.env := rfl

/-! ### setBank -/

@[simp] theorem State.setBank_cfg (e : Ep) (d : Dir) (b : Bank) : (s.setBank e d b).cfg = s.cfg := rfl
@[simp] theorem State.setBank_regs (e : Ep) (d : Dir) (b : Bank) : (s.setBank e d b).regs = s.regs := rfl
@[simp] theorem State.setBank_bdt (e : Ep) (d : Dir) (b : Bank) : (s.setBank e d b).bdt = s.bdt := rfl
@[simp] theorem State.setBank_hwBank (e : Ep) (d : Dir) (b : Bank) : (s.setBank e d b).hwBank = s.hwBank.set (epDir e d) b := rfl
@[simp] theorem State.setBank_pool (e : Ep) (d : Dir) (b : Bank) : (s.setBank e d b).pool = s.pool := rfl
@[simp] theorem State.setBank_eps (e : Ep) (d : Dir) (b : Bank) : (s.setBank e d b).eps = s.eps := rfl
@[simp] theorem State.setBank_ep0 (e : Ep) (d : Dir) (b : Bank) : (s.setBank e d b).ep0 = s.ep0 := rfl
@[simp] theorem State.setBank_ctx (e : Ep) (d : Dir) (b : Bank) : (s.setBank e d b).ctx = s.ctx := rfl
@[simp] theorem State.setBank_mem (e : Ep) (d : Dir) (b : Bank) : (s.setBank e d b).mem = s.mem := rfl
@[simp] theorem State.setBank_env (e : Ep) (d : Dir) (b : Bank) : (s.setBank e d b).env = s.env := rfl

/-! ### setTimer -/

@[simp] theorem State.setTimer_cfg (n : Nat) : (s.setTimer n).cfg = s.cfg := rfl
@[simp] theorem State.setTimer_regs (n : Nat) : (s.setTimer n).regs = s.regs := rfl
@[simp] theorem State.setTimer_bdt (n : Nat) : (s.setTimer n).bdt = s.bdt := rfl
@[simp] theorem State.setTimer_hwBank (n : Nat) : (s.setTimer n).hwBank = s.hwBank := rfl
@[simp] theorem State.setTimer_pool (n : Nat) : (s.setTimer n).pool = s.pool := rfl
@[simp] theorem State.setTimer_eps (n : Nat) : (s.setTimer n).eps = s.eps := rfl
@[simp] theorem State.setTimer_ep0 (n : Nat) : (s.setTimer n).ep0 = s.ep0 := rfl
@[simp] theorem State.setTimer_mem (n : Nat) : (s.setTimer n).mem = s.mem := rfl
@[simp] theorem State.setTimer_env (n : Nat) : (s.setTimer n).env = s.env := rfl

/-! ### setIrqMask -/

@[simp] theorem State.setIrqMask_cfg (v : Bool) : (s.setIrqMask v).cfg = s.cfg := rfl
@[simp] theorem State.setIrqMask_regs (v : Bool) : (s.setIrqMask v).regs = s.regs := rfl
@[simp] theorem State.setIrqMask_bdt (v : Bool) : (s.setIrqMask v).bdt = s.bdt := rfl
@[simp] theorem State.setIrqMask_hwBank (v : Bool) : (s.setIrqMask v).hwBank = s.hwBank := rfl
@[simp] theorem State.setIrqMask_pool (v : Bool) : (s.setIrqMask v).pool = s.pool := rfl
@[simp] theorem State.setIrqMask_eps (v : Bool) : (s.setIrqMask v).eps = s.eps := rfl
@[simp] theorem State.setIrqMask_ep0 (v : Bool) : (s.setIrqMask v).ep0 = s.ep0 := rfl
@[simp] theorem State.setIrqMask_mem (v : Bool) : (s.setIrqMask v).mem = s.mem := rfl
@[simp] theorem State.setIrqMask_env (v : Bool) : (s.setIrqMask v).env = s.env := rfl

/-! ### setFreeList -/

@[simp] theorem State.setFreeList_cfg (ep : Ep) (l : List Nat) : (s.setFreeList ep l).cfg = s.cfg := rfl
@[simp] theorem State.setFreeList_regs (ep : Ep) (l : List Nat) : (s.setFreeList ep l).regs = s.regs := rfl
@[simp] theorem State.setFreeList_bdt (ep : Ep) (l : List Nat) : (s.setFreeList ep l).bdt = s.bdt := rfl
@[simp] theorem State.setFreeList_hwBank (ep : Ep) (l : List Nat) : (s.setFreeList ep l).hwBank = s.hwBank := rfl
@[simp] theorem State.setFreeList_eps (ep : Ep) (l : List Nat) : (s.setFreeList ep l).eps = s.eps := rfl
@[simp] theorem State.setFreeList_ep0 (ep : Ep) (l : List Nat) : (s.setFreeList ep l).ep0 = s.ep0 := rfl
@[simp] theorem State.setFreeList_ctx (ep : Ep) (l : List Nat) : (s.setFreeList ep l).ctx = s.ctx := rfl
@[simp] theorem State.setFreeList_mem (ep : Ep) (l : List Nat) : (s.setFreeList ep l).mem = s.mem := rfl
@[simp] theorem State.setFreeList_env (ep : Ep) (l : List Nat) : (s.setFreeList ep l).env = s.env := rfl

/-! ### setRemainder -/

@[simp] theorem State.setRemainder_cfg (p : Option Word) (n : Nat) : (s.setRemainder p n).cfg = s.cfg := rfl
@[simp] theorem State.setRemainder_regs (p : Option Word) (n : Nat) : (s.setRemainder p n).regs = s.regs := rfl
@[simp] theorem State.setRemainder_bdt (p : Option Word) (n : Nat) : (s.setRemainder p n).bdt = s.bdt := rfl
@[simp] theorem State.setRemainder_hwBank (p : Option Word) (n : Nat) : (s.setRemainder p n).hwBank = s.hwBank := rfl
@[simp] theorem State.setRemainder_pool (p : Option Word) (n : Nat) : (s.setRemainder p n).pool = s.pool := rfl
@[simp] theorem State.setRemainder_eps (p : Option Word) (n : Nat) : (s.setRemainder p n).eps = s.eps := rfl
@[simp] theorem State.setRemainder_ctx (p : Option Word) (n : Nat) : (s.setRemainder p n).ctx = s.ctx := rfl
@[simp] theorem State.setRemainder_mem (p : Option Word) (n : Nat) : (s.setRemainder p n).mem = s.mem := rfl
@[simp] theorem State.setRemainder_env (p : Option Word) (n : Nat) : (s.setRemainder p n).env = s.env := rfl

/-! ### setPhase -/

@[simp] theorem State.setPhase_cfg (p : Phase) : (s.setPhase p).cfg = s.cfg := rfl
@[simp] theorem State.setPhase_regs (p : Phase) : (s.setPhase p).regs = s.regs := rfl
@[simp] theorem State.setPhase_bdt (p : Phase) : (s.setPhase p).bdt = s.bdt := rfl
@[simp] theorem State.setPhase_hwBank (p : Phase) : (s.setPhase p).hwBank = s.hwBank := rfl
@[simp] theorem State.setPhase_pool (p : Phase) : (s.setPhase p).pool = s.pool := rfl
@[simp] theorem State.setPhase_eps (p : Phase) : (s.setPhase p).eps = s.eps := rfl
@[simp] theorem State.setPhase_ctx (p : Phase) : (s.setPhase p).ctx = s.ctx := rfl
@[simp] theorem State.setPhase_mem (p : Phase) : (s.setPhase p).mem = s.mem := rfl
@[simp] theorem State.setPhase_env (p : Phase) : (s.setPhase p).env = s.env := rfl

/-! ### setOpen -/

@[simp] theorem State.setOpen_cfg (v : Bool) : (s.setOpen v).cfg = s.cfg := rfl
@[simp] theorem State.setOpen_regs (v : Bool) : (s.setOpen v).regs = s.regs := rfl
@[simp] theorem State.setOpen_bdt (v : Bool) : (s.setOpen v).bdt = s.bdt := rfl
@[simp] theorem State.setOpen_hwBank (v : Bool) : (s.setOpen v).hwBank = s.hwBank := rfl
@[simp] theorem State.setOpen_pool (v : Bool) : (s.setOpen v).pool = s.pool := rfl
@[simp] theorem State.setOpen_eps (v : Bool) : (s.setOpen v).eps = s.eps := rfl
@[simp] theorem State.setOpen_ctx (v : Bool) : (s.setOpen v).ctx = s.ctx := rfl
@[simp] theorem State.setOpen_mem (v : Bool) : (s.setOpen v).mem = s.mem := rfl
@[simp] theorem State.setOpen_env (v : Bool) : (s.setOpen v).env = s.env := rfl
@[simp] theorem State.setOpen_ep0 (v : Bool) : (s.setOpen v).ep0 = { s.ep0 with transferOpen := v } := rfl

/-! ### setTrace -/

@[simp] theorem State.setTrace_cfg (l : List Input) : (s.setTrace l).cfg = s.cfg := rfl
@[simp] theorem State.setTrace_regs (l : List Input) : (s.setTrace l).regs = s.regs := rfl
@[simp] theorem State.setTrace_bdt (l : List Input) : (s.setTrace l).bdt = s.bdt := rfl
@[simp] theorem State.setTrace_hwBank (l : List Input) : (s.setTrace l).hwBank = s.hwBank := rfl
@[simp] theorem State.setTrace_pool (l : List Input) : (s.setTrace l).pool = s.pool := rfl
@[simp] theorem State.setTrace_eps (l : List Input) : (s.setTrace l).eps = s.eps := rfl
@[simp] theorem State.setTrace_ep0 (l : List Input) : (s.setTrace l).ep0 = s.ep0 := rfl
@[simp] theorem State.setTrace_ctx (l : List Input) : (s.setTrace l).ctx = s.ctx := rfl
@[simp] theorem State.setTrace_mem (l : List Input) : (s.setTrace l).mem = s.mem := rfl

/-! ### suspend -/

@[simp] theorem State.suspend_cfg : (s.suspend).cfg = s.cfg := rfl
@[simp] theorem State.suspend_bdt : (s.suspend).bdt = s.bdt := rfl
@[simp] theorem State.suspend_hwBank : (s.suspend).hwBank = s.hwBank := rfl
@[simp] theorem State.suspend_pool : (s.suspend).pool = s.pool := rfl
@[simp] theorem State.suspend_eps : (s.suspend).eps = s.eps := rfl
@[simp] theorem State.suspend_ep0 : (s.suspend).ep0 = s.ep0 := rfl
@[simp] theorem State.suspend_ctx : (s.suspend).ctx = s.ctx := rfl
@[simp] theorem State.suspend_mem : (s.suspend).mem = s.mem := rfl
@[simp] theorem State.suspend_env : (s.suspend).env = s.env := rfl

/-! ### latchErrors -/

@[simp] theorem State.latchErrors_cfg (m : Byte) : (s.latchErrors m).cfg = s.cfg := rfl
@[simp] theorem State.latchErrors_bdt (m : Byte) : (s.latchErrors m).bdt = s.bdt := rfl
@[simp] theorem State.latchErrors_hwBank (m : Byte) : (s.latchErrors m).hwBank = s.hwBank := rfl
@[simp] theorem State.latchErrors_pool (m : Byte) : (s.latchErrors m).pool = s.pool := rfl
@[simp] theorem State.latchErrors_eps (m : Byte) : (s.latchErrors m).eps = s.eps := rfl
@[simp] theorem State.latchErrors_ep0 (m : Byte) : (s.latchErrors m).ep0 = s.ep0 := rfl
@[simp] theorem State.latchErrors_ctx (m : Byte) : (s.latchErrors m).ctx = s.ctx := rfl
@[simp] theorem State.latchErrors_mem (m : Byte) : (s.latchErrors m).mem = s.mem := rfl
@[simp] theorem State.latchErrors_env (m : Byte) : (s.latchErrors m).env = s.env := rfl

/-! ### reading after writing -/

theorem State.slot_def (k : SlotIx) : s.slot k = s.bdt.get k := rfl
theorem State.endpoint_def (e : Ep) : s.endpoint e = s.eps.get e := rfl
theorem State.endptReg_def (e : Ep) : s.endptReg e = s.regs.endpt.get e := rfl
theorem State.bankOf_def (e : Ep) (d : Dir) : s.bankOf e d = s.hwBank.get (epDir e d) := rfl
theorem State.byte_def (a : Word) : s.byte a = memGet s.mem a.toNat := rfl

theorem State.slot_setSlot (k j : SlotIx) (v : Slot) :
    (s.setSlot k v).slot j = if k = j then v else s.slot j := Tab.get_set ..

theorem State.slot_setDesc (k j : SlotIx) (d : Word) :
    (s.setDesc k d).slot j = if k = j then ⟨d, (s.slot k).addr⟩ else s.slot j := Tab.get_set ..

theorem State.slot_arm (ep : Ep) (d : Dir) (b : Bank) (n : BitVec 10) (t : Toggle) (a : Word) (j : SlotIx) :
    (s.arm ep d b n t a).slot j = if slotOf ep d b = j then ⟨armedWord n t, a⟩ else s.slot j := Tab.get_set ..

theorem State.endpoint_setEndpoint (e f : Ep) (v : Endpoint) :
    (s.setEndpoint e v).endpoint f = if e = f then v else s.endpoint f := Tab.get_set ..

theorem State.endptReg_setEndptReg (e f : Ep) (v : Byte) :
    (s.setEndptReg e v).endptReg f = if e = f then v &&& 0x1F else s.endptReg f := Tab.get_set ..

theorem State.bankOf_setBank (e f : Ep) (d g : Dir) (b : Bank) :
    (s.setBank e d b).bankOf f g = if epDir e d = epDir f g then b else s.bankOf f g := Tab.get_set ..

theorem putPkt_getD (ps : List Pkt) (i j : Nat) (v : Pkt) :
    (putPkt ps i v).getD j ⟨0, 0, 0⟩ = if i = j then v else ps.getD j ⟨0, 0, 0⟩ := by
  induction ps generalizing i j with
  | nil =>
    induction i generalizing j with
    | zero => cases j <;> simp [putPkt]
    | succ i ih => cases j <;> simp_all [putPkt]
  | cons p ps ih =>
    cases i with
    | zero => cases j <;> simp [putPkt]
    | succ i => cases j <;> simp_all [putPkt]

theorem State.pkt_setPkt (i j : Nat) (v : Pkt) : (s.setPkt i v).pkt j = if i = j then v else s.pkt j :=
  putPkt_getD ..

@[simp] theorem State.setPkt_freeMap (i : Nat) (v : Pkt) : (s.setPkt i v).pool.freeMap = s.pool.freeMap := rfl
@[simp] theorem State.setPkt_freeList (i : Nat) (v : Pkt) : (s.setPkt i v).pool.freeList = s.pool.freeList := rfl
@[simp] theorem State.setFreeList_pkts (e : Ep) (l : List Nat) : (s.setFreeList e l).pool.pkts = s.pool.pkts := rfl
@[simp] theorem State.setFreeList_freeMap (e : Ep) (l : List Nat) :
    (s.setFreeList e l).pool.freeMap = s.pool.freeMap := rfl

end Sys2Proof.Machine
end

