-- ==== Sys2Proof/Laws/Memory.lean ====
section
/-! SUPPORT. Laws of memory: every operation keeps the canonical form; a read after a write to the same place
gives the value written, and a write leaves every other place alone. -/

namespace Sys2Proof.Machine

/-- A lower bound may be weakened. -/
theorem memWfFrom_mono {lo lo' : Nat} {m : List Host.Cell} (h : memWfFrom lo m = true) (hl : lo' ≤ lo) :
    memWfFrom lo' m = true := by
  cases m with
  | nil => rfl
  | cons c m =>
    obtain ⟨k, v⟩ := c
    simp only [memWfFrom, Bool.and_eq_true, decide_eq_true_eq] at h ⊢
    exact ⟨⟨⟨by omega, h.1.1.2⟩, h.1.2⟩, h.2⟩

/-- Below the first address nothing is listed. -/
theorem memGet_below {lo a : Nat} {m : List Host.Cell} (h : memWfFrom lo m = true) (ha : a < lo) :
    memGet m a = unlistedByte := by
  cases m with
  | nil => rfl
  | cons c m =>
    obtain ⟨k, v⟩ := c
    simp only [memWfFrom, Bool.and_eq_true, decide_eq_true_eq] at h
    simp only [memGet]
    rw [if_pos (by omega)]

/-- A byte write keeps the canonical form. -/
theorem memPut_wfFrom {lo a : Nat} {m : List Host.Cell} (v : Byte) (h : memWfFrom lo m = true) (hl : lo ≤ a)
    (ha : a < 2 ^ 32) : memWfFrom lo (memPut m a v) = true := by
  induction m generalizing lo with
  | nil => by_cases hv : v = unlistedByte <;> simp [memPut, memWfFrom, hv, hl]; exact ha
  | cons c m ih =>
    obtain ⟨k, w⟩ := c
    simp only [memWfFrom, Bool.and_eq_true, decide_eq_true_eq] at h
    obtain ⟨⟨⟨h1, h2⟩, h3⟩, h4⟩ := h
    simp only [memPut]
    split
    · split
      · simp only [memWfFrom, Bool.and_eq_true, decide_eq_true_eq]
        exact ⟨⟨⟨h1, h2⟩, h3⟩, h4⟩
      · simp only [memWfFrom, Bool.and_eq_true, decide_eq_true_eq]
        exact ⟨⟨⟨hl, ha⟩, by simpa using ‹¬v = unlistedByte›⟩, ⟨⟨by omega, h2⟩, h3⟩, h4⟩
    · split
      · split
        · exact memWfFrom_mono h4 (by omega)
        · simp only [memWfFrom, Bool.and_eq_true, decide_eq_true_eq]
          exact ⟨⟨⟨hl, ha⟩, by simpa using ‹¬v = unlistedByte›⟩, by subst_vars; exact h4⟩
      · simp only [memWfFrom, Bool.and_eq_true, decide_eq_true_eq]
        exact ⟨⟨⟨h1, h2⟩, h3⟩, ih h4 (by omega)⟩

/-- Reading after a byte write. -/
theorem memGet_memPut {lo : Nat} {m : List Host.Cell} (a b : Nat) (v : Byte) (h : memWfFrom lo m = true) :
    memGet (memPut m a v) b = if a = b then v else memGet m b := by
  induction m generalizing lo with
  | nil =>
    by_cases hv : v = unlistedByte <;> by_cases hab : a = b <;> simp [memPut, memGet, hv, hab]
    omega
  | cons c m ih =>
    obtain ⟨k, w⟩ := c
    simp only [memWfFrom, Bool.and_eq_true, decide_eq_true_eq] at h
    have below : ∀ x, x ≤ k → memGet m x = unlistedByte := fun x hx => memGet_below h.2 (by omega)
    simp only [memPut]
    rcases Nat.lt_trichotomy a k with hak | hak | hak
    · rw [if_pos hak]
      by_cases hab : a = b
      · subst hab
        split <;> simp [memGet, *]
      · rw [if_neg hab]
        split
        · rfl
        · rw [memGet]
          by_cases hb : b < a
          · rw [if_pos hb, memGet, if_pos (by omega)]
          · rw [if_neg hb, if_neg (Ne.symm hab)]
    · subst hak
      rw [if_neg (by omega), if_pos rfl]
      by_cases hab : a = b
      · subst hab
        split
        · simp [*]
        · simp [memGet]
      · rw [if_neg hab]
        split
        · rw [memGet, if_neg (Ne.symm hab)]
          split
          · exact below b (by omega)
          · rfl
        · simp only [memGet, if_neg (Ne.symm hab)]
    · rw [if_neg (by omega), if_neg (by omega)]
      simp only [memGet]
      by_cases hab : a = b
      · subst hab
        rw [if_neg (by omega), if_neg (by omega), ih h.2, if_pos rfl, if_pos rfl]
      · rw [ih h.2, if_neg hab, if_neg hab]

/-- `MemWrite` keeps the canonical form. -/
theorem memWrite_wf {m : List Host.Cell} (a : Word) (bs : List Byte) (h : memWf m = true) :
    memWf (memWrite m a bs) = true := by
  induction bs generalizing m a with
  | nil => exact h
  | cons b bs ih => exact ih _ (memPut_wfFrom b h (Nat.zero_le _) a.isLt)

/-- A byte outside the span is left alone; a byte inside it is the one written. -/
theorem memGet_memWrite {m : List Host.Cell} (a : Word) (bs : List Byte) (b : Nat) (h : memWf m = true)
    (hs : a.toNat + bs.length ≤ 2 ^ 32) :
    memGet (memWrite m a bs) b =
      if a.toNat ≤ b ∧ b < a.toNat + bs.length then bs.getD (b - a.toNat) 0 else memGet m b := by
  induction bs generalizing m a with
  | nil =>
    simp only [memWrite, List.length_nil, Nat.add_zero]
    rw [if_neg (by omega)]
  | cons c bs ih =>
    simp only [List.length_cons] at hs
    simp only [memWrite]
    cases bs with
    | nil =>
      simp only [memWrite, List.length_cons, List.length_nil, memGet_memPut a.toNat b c h]
      by_cases hab : a.toNat = b
      · subst hab; simp
      · rw [if_neg hab, if_neg (by omega)]
    | cons d bs =>
      simp only [List.length_cons] at hs ih
      have h1 : (a + 1).toNat = a.toNat + 1 := by rw [BitVec.toNat_add]; simp; omega
      rw [ih (a + 1) (memPut_wfFrom c h (Nat.zero_le _) a.isLt) (by omega), h1, memGet_memPut a.toNat b c h]
      by_cases hab : a.toNat = b
      · subst hab; simp
      · by_cases hin : a.toNat + 1 ≤ b ∧ b < a.toNat + 1 + (bs.length + 1)
        · rw [if_pos hin, if_pos (by simp; omega)]
          obtain ⟨j, rfl⟩ : ∃ j, b = a.toNat + 1 + j := ⟨b - (a.toNat + 1), by omega⟩
          rw [show a.toNat + 1 + j - (a.toNat + 1) = j by omega, show a.toNat + 1 + j - a.toNat = j + 1 by omega]
          simp
        · rw [if_neg hin, if_neg hab, if_neg (by simp; omega)]

/-- `MemRead` of what `MemWrite` wrote. -/
theorem memRead_memWrite {m : List Host.Cell} (a : Word) (bs : List Byte) (h : memWf m = true)
    (hs : a.toNat + bs.length ≤ 2 ^ 32) : memRead (memWrite m a bs) a bs.length = bs := by
  have key : ∀ (n k : Nat) (c : Word), k + n = bs.length → c = a + BitVec.ofNat 32 k →
      memRead (memWrite m a bs) c n = bs.drop k := by
    intro n
    induction n with
    | zero => intro k c hk _; simp only [memRead]; rw [List.drop_eq_nil_of_le (by omega)]
    | succ n ih =>
      intro k c hk hc
      have hck : c.toNat = a.toNat + k := by subst hc; rw [BitVec.toNat_add]; simp; omega
      simp only [memRead]
      rw [memGet_memWrite a bs c.toNat h hs, if_pos (by omega),
        ih (k + 1) (c + 1) (by omega) (by subst hc; rw [BitVec.add_assoc]; congr 1; exact (BitVec.ofNat_add k 1).symm),
        hck, show a.toNat + k - a.toNat = k by omega, List.getD_eq_getElem _ _ (by omega)]
      exact (List.drop_eq_getElem_cons (by omega)).symm
  simpa using key bs.length 0 a (by omega) (by simp)

/-- The store of a state keeps the canonical form. -/
theorem State.store_wf (s : State) (a : Word) (bs : List Byte) (h : memWf s.mem = true) :
    memWf (s.store a bs).mem = true := memWrite_wf a bs h

/-- A byte of the state after a store whose span does not leave the address space. -/
theorem State.byte_store (s : State) (a : Word) (bs : List Byte) (b : Word) (h : memWf s.mem = true)
    (hs : a.toNat + bs.length ≤ 2 ^ 32) :
    (s.store a bs).byte b =
      if a.toNat ≤ b.toNat ∧ b.toNat < a.toNat + bs.length then bs.getD (b.toNat - a.toNat) 0 else s.byte b :=
  memGet_memWrite a bs b.toNat h hs

/-- The machine after reset has canonical memory. -/
theorem reset_memWf : memWf State.reset.mem = true := rfl

end Sys2Proof.Machine
end

