-- ==== Sys2Proof/Laws/Moves.lean ====
section
/-! SUPPORT. What a step can do, said once: every next state is reached by a chain of elementary moves, each
with the condition it is made under. An invariant of the machine is proved by looking at the moves. -/

namespace Sys2Proof.Machine

/-- One elementary change of the state. -/
inductive Move : State → State → Prop
  /-- bytes are stored -/
  | mem (s : State) (a : Word) (bs : List Byte) : Move s (s.store a bs)
  /-- a slot is written with a descriptor word a rule writes -/
  | slot (s : State) (k : SlotIx) (v : Slot) (h : IsRuleWord v.desc) : Move s (s.setSlot k v)
  /-- an endpoint-control register is written -/
  | endpt (s : State) (e : Ep) (v : Byte) : Move s (s.setEndptReg e v)
  /-- `ISTAT` is written -/
  | clear (s : State) (v : Byte) : Move s (s.clearIstat v)
  /-- the link raises flags other than `tokdne`, `resume` and `attach` -/
  | raise (s : State) (v : Byte) (h : v &&& 0x68 = 0) : Move s (s.raiseIstat v)
  /-- the link queues a status byte while there is room -/
  | push (s : State) (ep : Ep) (d : Dir) (b : Bank) (he : ep.toNat ≤ s.cfg.nEp.toNat)
      (hl : s.regs.statFifo.length < s.cfg.statDepth) : Move s (s.pushStat (statOf ep d b))
  /-- a bus reset discards the status queue -/
  | drop (s : State) : Move s { s with regs := { s.regs with statFifo := [] } }
  /-- registers other than `ENDPT`, `ISTAT` and the status queue change -/
  | regs (s : State) (r : Regs) (h1 : r.endpt = s.regs.endpt) (h2 : r.istat = s.regs.istat)
      (h3 : r.statFifo = s.regs.statFifo) : Move s { s with regs := r }
  /-- bank pointers change -/
  | banks (s : State) (b : Tab 5 Bank) : Move s { s with hwBank := b }
  /-- packet headers or the free structure change -/
  | pool (s : State) (p : Pool) : Move s { s with pool := p }
  /-- an endpoint's record changes, its transmit queue still empty or its banks still both the link's -/
  | endpoint (s : State) (e : Ep) (v : Endpoint) (h : (s.endpoint e).txOk → v.txOk) : Move s (s.setEndpoint e v)
  /-- the control-transfer context changes -/
  | ep0 (s : State) (v : Ep0) : Move s { s with ep0 := v }
  /-- timers and context flags change, the reboot timer down or within its bound -/
  | ctx (s : State) (v : Ctx) (h : v.rebootTimer ≤ s.ctx.rebootTimer ∨ v.rebootTimer ≤ s.cfg.timerMax) :
      Move s { s with ctx := v }
  /-- inputs and outputs change -/
  | env (s : State) (v : Env) : Move s { s with env := v }
  /-- bus initialisation -/
  | init (s : State) : Move s s.busInit

/-- A chain of moves. -/
abbrev Moves : State → State → Prop := Relation.ReflTransGen Move

/-- Every next state of an outcome is reached by moves. -/
def MovesTo (s : State) (o : Out) : Prop := ∀ t, o = .next t → Moves s t

theorem Moves.refl (s : State) : Moves s s := Relation.ReflTransGen.refl

theorem Move.one {s t : State} (h : Move s t) : Moves s t := Relation.ReflTransGen.single h

theorem Moves.trans {s t u : State} (h : Moves s t) (k : Moves t u) : Moves s u :=
  Relation.ReflTransGen.trans h k

theorem MovesTo.next {s t : State} (h : Moves s t) : MovesTo s (.next t) := by
  intro u hu; injection hu with hu; exact hu ▸ h

theorem MovesTo.fault {s : State} (f : Fault) : MovesTo s (.fault f) := fun _ h => by injection h

theorem MovesTo.refused {s : State} (r : Refusal) : MovesTo s (.refused r) := fun _ h => by injection h

theorem MovesTo.andThen {s : State} {o : Out} {k : State → Out} (h : MovesTo s o)
    (hk : ∀ t, MovesTo t (k t)) : MovesTo s (andThen o k) := by
  intro u hu
  cases o with
  | next t => exact (h t rfl).trans (hk t u hu)
  | fault f => exact absurd hu (by simp [Machine.andThen])
  | refused r => exact absurd hu (by simp [Machine.andThen])

theorem MovesTo.ite {s : State} {c : Prop} [Decidable c] {a b : Out} (ha : MovesTo s a) (hb : MovesTo s b) :
    MovesTo s (if c then a else b) := by split <;> assumption

theorem MovesTo.forEach {α : Type} {f : α → State → Out} (hf : ∀ a s, MovesTo s (f a s)) (l : List α) (s : State) :
    MovesTo s (forEach f l s) := by
  induction l generalizing s with
  | nil => exact .next (.refl s)
  | cons a l ih => exact (hf a s).andThen ih

theorem MovesTo.withSpan {s : State} {c : Config} {a : Word} {n : Nat} {k : Out} (h : MovesTo s k) :
    MovesTo s (withSpan c a n k) := .ite (.fault _) (.ite h (.refused _))

theorem MovesTo.withReceive {s u : State} {a : Word} {n : Nat} {k : Out} (h : MovesTo s k) :
    MovesTo s (u.withReceive a n k) := .ite (.withSpan h) (.refused _)

/-- An outcome reached after moves. -/
theorem MovesTo.after {s t : State} {o : Out} (h : Moves s t) (k : MovesTo t o) : MovesTo s o :=
  fun u hu => h.trans (k u hu)

theorem Moves.foldl {α : Type} {f : State → α → State} (hf : ∀ s a, Moves s (f s a)) (l : List α) (s : State) :
    Moves s (l.foldl f s) := by
  induction l generalizing s with
  | nil => exact .refl s
  | cons a l ih => exact (hf s a).trans (ih _)

theorem IsRuleWord.armed (n : BitVec 10) (t : Toggle) : IsRuleWord (armedWord n t) := .inr (.inl ⟨n, t, rfl⟩)

theorem IsRuleWord.completed (n : BitVec 10) (t : Toggle) (k : BitVec 4) : IsRuleWord (completedWord n t k) :=
  .inr (.inr ⟨n, t, k, rfl⟩)

theorem IsRuleWord.unarmed : IsRuleWord unarmedWord := .inl rfl

/-! ## The updates as moves -/

theorem moves_setEndpoint (s : State) (e : Ep) (v : Endpoint) (h : (s.endpoint e).txOk → v.txOk) :
    Moves s (s.setEndpoint e v) := (Move.endpoint s e v h).one

theorem moves_ctx (s : State) (v : Ctx)
    (h : v.rebootTimer ≤ s.ctx.rebootTimer ∨ v.rebootTimer ≤ s.cfg.timerMax) :
    Moves s { s with ctx := v } := (Move.ctx s v h).one

theorem moves_ep0 (s : State) (v : Ep0) : Moves s { s with ep0 := v } := (Move.ep0 s v).one

theorem moves_banks (s : State) (b : Tab 5 Bank) : Moves s { s with hwBank := b } := (Move.banks s b).one

theorem moves_regs (s : State) (r : Regs) (h1 : r.endpt = s.regs.endpt) (h2 : r.istat = s.regs.istat)
    (h3 : r.statFifo = s.regs.statFifo) : Moves s { s with regs := r } := (Move.regs s r h1 h2 h3).one

theorem moves_arm (s : State) (ep : Ep) (d : Dir) (b : Bank) (n : BitVec 10) (t : Toggle) (a : Word) :
    Moves s (s.arm ep d b n t a) := (Move.slot s _ _ (.armed n t)).one

theorem moves_setDesc (s : State) (k : SlotIx) (d : Word) (h : IsRuleWord d) : Moves s (s.setDesc k d) :=
  (Move.slot s k ⟨d, (s.slot k).addr⟩ h).one

theorem moves_setPkt (s : State) (i : Nat) (v : Pkt) : Moves s (s.setPkt i v) := (Move.pool s _).one

theorem moves_setFreeList (s : State) (e : Ep) (l : List Nat) : Moves s (s.setFreeList e l) := (Move.pool s _).one

theorem moves_setResult (s : State) (r : Result) : Moves s (s.setResult r) := (Move.env s _).one

theorem moves_setPhase (s : State) (p : Phase) : Moves s (s.setPhase p) := (Move.ep0 s _).one

theorem moves_setOpen (s : State) (v : Bool) : Moves s (s.setOpen v) := (Move.ep0 s _).one

theorem moves_setTrace (s : State) (l : List Input) : Moves s (s.setTrace l) := (Move.env s _).one

theorem moves_setStarved (s : State) (e : Ep) (v : Bool) : Moves s (s.setStarved e v) :=
  moves_setEndpoint s e _ fun h => h

theorem moves_writeCtl (s : State) (v : Byte) : Moves s (s.writeCtl v) :=
  (moves_regs s (s.writeCtl v).regs rfl rfl rfl).trans (moves_banks _ (s.writeCtl v).hwBank)

theorem moves_clearErrStat (s : State) (v : Byte) : Moves s (s.clearErrStat v) := moves_regs s _ rfl rfl rfl

theorem moves_suspend (s : State) : Moves s s.suspend := moves_regs s _ rfl rfl rfl

theorem moves_isrAt (s : State) (p : IsrPoint) (v : Byte) : Moves s (s.isrAt p v) :=
  moves_ctx s _ (.inl (Nat.le_refl _))

theorem moves_enterIsr (s : State) : Moves s s.enterIsr := moves_ctx s _ (.inl (Nat.le_refl _))

theorem moves_leaveIsr (s : State) : Moves s s.leaveIsr := moves_ctx s _ (.inl (Nat.le_refl _))

/-! ## The allocator -/

theorem moves_freshHeader (s : State) (i : Nat) : Moves s (s.freshHeader i) := moves_setPkt s i _

theorem moves_allocShared (s : State) : Moves s s.allocShared.2 := by
  unfold State.allocShared
  split
  · exact .refl s
  · exact (Move.pool s _).one

theorem moves_allocSegregated (s : State) (ep : Byte) : Moves s (s.allocSegregated ep).2 := by
  unfold State.allocSegregated
  split
  · split
    · exact .refl s
    · exact (moves_setFreeList s _ _).trans (moves_freshHeader _ _)
  · exact .refl s

theorem moves_allocate (s : State) (ep : Byte) : Moves s (s.allocate ep).2 := by
  unfold State.allocate
  split
  · exact moves_allocShared s
  · exact moves_allocSegregated s ep

theorem moves_poolPut (s : State) (i : Nat) : Moves s (s.poolPut i) := by
  unfold State.poolPut
  split
  · exact (Move.pool s _).one
  · exact moves_setFreeList s _ _

theorem movesTo_poolReturn (s : State) (i : Nat) : MovesTo s (s.poolReturn i) :=
  .ite (.refused _) (.ite (.refused _) (.next (moves_poolPut s i)))

theorem moves_armRx (s : State) (ep : Ep) (b : Bank) (i : Nat) : Moves s (s.armRx ep b i) := moves_arm ..

theorem moves_redirectTo (s : State) (ep : Ep) (b : Bank) (i : Nat) : Moves s (s.redirectTo ep b i) := by
  unfold State.redirectTo
  split <;> exact (moves_armRx s ep b i).trans (moves_setStarved _ _ _)

theorem movesTo_redirect (s : State) (ep : Ep) (i : Nat) : MovesTo s (s.redirect ep i) :=
  .ite (.next (moves_redirectTo s ep _ i)) (.ite (.next (moves_redirectTo s ep _ i))
    (.after (moves_setStarved s ep false) (movesTo_poolReturn _ i)))

theorem movesTo_releaseTo (s : State) (i : Nat) : MovesTo s (s.releaseTo i) := by
  unfold State.releaseTo
  split
  · exact .ite (movesTo_redirect s _ i) (movesTo_poolReturn s i)
  · exact movesTo_poolReturn s i

theorem movesTo_release (s : State) (p : Option Nat) : MovesTo s (s.release p) := by
  unfold State.release
  split
  · exact .next (.refl s)
  · exact .ite (.refused _) (.ite (.refused _) (movesTo_releaseTo s _))

/-! ## Queues and banks -/

theorem moves_rxAppend (s : State) (ep : Ep) (i : Nat) : Moves s (s.rxAppend ep i) :=
  moves_setEndpoint s ep _ fun h => h

theorem movesTo_rxEnqueue (s : State) (ep : Ep) (i : Nat) : MovesTo s (s.rxEnqueue ep i) :=
  .ite (.refused _) (.ite (.refused _) (.ite (.refused _) (.next (moves_rxAppend s ep i))))

theorem moves_rxPop (s : State) (ep : Byte) : Moves s (s.rxPop ep).2 := by
  unfold State.rxPop
  split
  · split
    · exact .refl s
    · exact moves_setEndpoint s _ _ fun h => h
  · exact .refl s

theorem moves_setDiscipline (s : State) (ep : Ep) (d : Discipline) : Moves s (s.setDiscipline ep d) :=
  moves_setEndpoint s ep _ fun h => h

/-- A submit keeps the transmit queue's rule: it appends only where no bank is free, and leaves a free bank only
with the queue it found, which is empty under the rule. -/
theorem moves_submit (s : State) (ep : Ep) (i : Nat) : Moves s (s.submit ep i) := by
  unfold State.submit
  split
  · refine Moves.trans (Move.endpoint s ep _ ?_).one (moves_arm _ _ _ _ _ _ _)
    rename_i hb
    intro h
    rcases h with h | h
    · exact .inl h
    · cases hs : (s.endpoint ep).txState <;> simp [hs, submitBank, TxState.noneFree] at hb h
  · refine (Move.endpoint s ep _ ?_).one
    rename_i hb
    intro _
    refine .inr ?_
    cases hs : (s.endpoint ep).txState <;> simp [hs, submitBank, TxState.noneFree] at hb ⊢

theorem moves_completeTx (s : State) (ep : Ep) (b : Bank) : Moves s (s.completeTx ep b) := by
  unfold State.completeTx State.txPop
  cases hq : (s.endpoint ep).txq with
  | nil =>
    dsimp only
    exact moves_setEndpoint s ep _ fun _ => .inl hq
  | cons i rest =>
    have hset : ∀ (v w : Endpoint), (s.setEndpoint ep v).setEndpoint ep w = s.setEndpoint ep w := by
      intro v w
      simp [State.setEndpoint, Tab.set]
    refine Moves.trans (t := State.setTxState (s.setEndpoint ep { s.endpoint ep with txq := rest }) ep
      (tableA (s.endpoint ep).txState b)) ?_ (moves_arm _ _ _ _ _ _ _)
    unfold State.setTxState
    rw [hset]
    refine (Move.endpoint s ep _ ?_).one
    intro h
    rcases h with h | h
    · rw [hq] at h; cases h
    · refine .inr ?_
      cases hs : (s.endpoint ep).txState <;> cases b <;> simp [hs, TxState.noneFree, tableA] at h ⊢

theorem moves_submitIso (s : State) (ep : Ep) (a : Word) (n : BitVec 10) : Moves s (s.submitIso ep a n) :=
  (moves_arm s ep .tx _ n _ a).trans (moves_setEndpoint _ ep _ fun h => h)

theorem movesTo_txSubmit (ep : Byte) (p : BitVec 16) (s : State) : MovesTo s (execTxSubmit ep p s) :=
  .ite (.next (.refl s)) (.ite (.refused _) (.ite (.refused _) (.ite (.refused _)
    (.next ((moves_setDiscipline s _ _).trans (moves_submit _ _ _))))))

theorem movesTo_isoSubmit (ep : Byte) (a : Word) (n : BitVec 10) (s : State) :
    MovesTo s (execIsoSubmit ep a n s) :=
  .ite (.next (.refl s)) (.ite (.refused _) (.ite (.refused _) (.ite (.refused _)
    (.next ((moves_setDiscipline s _ _).trans (moves_submitIso _ _ _ _))))))

theorem movesTo_execRelease (p : BitVec 16) (s : State) : MovesTo s (execRelease p s) :=
  .ite (.next (.refl s)) (.ite (.refused _) (.ite (.refused _) (movesTo_release s _)))

/-! ## Context, transmit path, hooks -/

theorem movesTo_armTimer (s : State) (n : Nat) : MovesTo s (s.armTimer n) := by
  unfold State.armTimer
  split
  · exact .refused _
  · exact .next (Move.ctx s _ (.inr (by simp; omega))).one

theorem moves_ep0Transmit (s : State) (a : Word) (n : Nat) : Moves s (s.ep0Transmit a n) :=
  (moves_arm s 0 .tx s.ep0.txBank (BitVec.ofNat 10 n) s.ep0.txToggle a).trans (Move.ep0 _ _).one

theorem moves_setRemainder (s : State) (p : Option Word) (n : Nat) : Moves s (s.setRemainder p n) :=
  (Move.ep0 s _).one

theorem moves_ep0SendSecond (s : State) (a : Word) (n : Nat) : Moves s (s.ep0SendSecond a n) := by
  unfold State.ep0SendSecond
  dsimp only
  split
  · exact moves_ep0Transmit ..
  · exact (moves_ep0Transmit ..).trans (moves_setRemainder ..)

theorem moves_ep0SendClamped (s : State) (a : Word) (n : Nat) : Moves s (s.ep0SendClamped a n) := by
  unfold State.ep0SendClamped
  dsimp only
  split
  · exact moves_ep0Transmit ..
  · exact (moves_ep0Transmit ..).trans (moves_ep0SendSecond ..)

theorem moves_ep0Send (s : State) (a : Word) (n : Nat) : Moves s (s.ep0Send a n) := moves_ep0SendClamped ..

theorem moves_ep0In (s : State) : Moves s s.ep0In := by
  refine Moves.trans (t := s.drainRemainder.applyAddress) (Moves.trans (t := s.drainRemainder) ?_ ?_)
    ((moves_setPhase _ _).trans (moves_setOpen _ _))
  · unfold State.drainRemainder
    split
    · exact .refl s
    · dsimp only
      split <;> exact (moves_ep0Transmit ..).trans (moves_setRemainder ..)
  · unfold State.applyAddress
    split
    · exact (moves_ep0 _ { s.drainRemainder.ep0 with addrPending := false }).trans
        (moves_regs _ { s.drainRemainder.regs with addr := s.drainRemainder.ep0.addrLatch } rfl rfl rfl)
    · exact .refl _

theorem movesTo_ep0Transmit (a : Word) (n : BitVec 10) (s : State) : MovesTo s (execEp0Transmit a n s) :=
  .ite (.refused _) (.ite (.refused _) (.ite (.refused _) (.next (moves_ep0Transmit s a _))))

theorem movesTo_appStep (a : AppAct) (s : State) : MovesTo s (appStep a s) := by
  cases a with
  | fill i bytes =>
    exact .ite (.refused _) (.ite (.refused _) (.ite (.refused _) (.withSpan (.next
      ((Move.mem s _ _).one.trans (moves_setPkt _ _ _))))))
  | cursor i index => exact .ite (.refused _) (.ite (.refused _) (.next (moves_setPkt s _ _)))
  | store addr bytes =>
    exact .ite (.fault _) (.ite (.refused _) (.ite (.refused _) (.next (Move.mem s _ _).one)))

theorem movesTo_runCall (c : HookCall) (s : State) : MovesTo s (runCall c s) := by
  cases c with
  | alloc ep => exact .next ((moves_allocate s ep).trans (moves_setResult _ _))
  | release p => exact movesTo_execRelease p s
  | txSubmit ep p => exact movesTo_txSubmit ep p s
  | isoSubmit ep a n => exact movesTo_isoSubmit ep a n s
  | ep0Transmit a n => exact movesTo_ep0Transmit a n s
  | setRebootTimer n => exact movesTo_armTimer s _
  | app a => exact movesTo_appStep a s

theorem movesTo_runCalls (cs : List HookCall) (s : State) : MovesTo s (runCalls cs s) :=
  .forEach movesTo_runCall cs s

theorem movesTo_hookTimer (s : State) (t : Option Nat) : MovesTo s (s.hookTimer t) := by
  cases t with
  | none => exact .next (.refl s)
  | some n => exact movesTo_armTimer s n

theorem moves_nextClassAnswer (s : State) : Moves s s.nextClassAnswer.2 := by
  unfold State.nextClassAnswer
  split
  · exact .refl s
  · exact (Move.env s _).one

theorem moves_nextOutAnswer (s : State) : Moves s s.nextOutAnswer.2 := by
  unfold State.nextOutAnswer
  split
  · exact .refl s
  · exact (Move.env s _).one

theorem movesTo_tickHook (s : State) : MovesTo s s.tickHook := by
  refine .after ?_ (movesTo_runCalls _ _)
  unfold State.nextTickScript
  split
  · exact .refl s
  · exact (Move.env s _).one

/-! ## Request handlers -/

/-- Every state a handler leaves is reached by moves. -/
def ReqMoves (s : State) (r : ReqOut) : Prop :=
  (∀ t, r = .served t → Moves s t) ∧ ∀ t, r = .stalled t → Moves s t

theorem ReqMoves.served {s t : State} (h : Moves s t) : ReqMoves s (.served t) :=
  ⟨fun _ e => by injection e with e; exact e ▸ h, fun _ e => by injection e⟩

theorem ReqMoves.stall (s : State) : ReqMoves s (raiseStall0 s) :=
  ⟨fun _ e => by injection e, fun _ e => by injection e with e; exact e ▸ (Move.endpt s 0 0x0F).one⟩

theorem ReqMoves.fault {s : State} (f : Fault) : ReqMoves s (.fault f) :=
  ⟨fun _ e => (by injection e), fun _ e => (by injection e)⟩

theorem ReqMoves.refused {s : State} (f : Refusal) : ReqMoves s (.refused f) :=
  ⟨fun _ e => (by injection e), fun _ e => (by injection e)⟩

theorem ReqMoves.ite {s : State} {c : Prop} [Decidable c] {a b : ReqOut} (ha : ReqMoves s a)
    (hb : ReqMoves s b) : ReqMoves s (if c then a else b) := by split <;> assumption

theorem ReqMoves.after {s : State} {o : Out} {k : State → ReqOut} (h : MovesTo s o)
    (hk : ∀ t, ReqMoves t (k t)) : ReqMoves s (ReqOut.after o k) := by
  cases o with
  | next t => exact ⟨fun u hu => (h t rfl).trans ((hk t).1 u hu), fun u hu => (h t rfl).trans ((hk t).2 u hu)⟩
  | fault f => exact .fault f
  | refused r => exact .refused r

theorem ReqMoves.toOut {s : State} {r : ReqOut} (h : ReqMoves s r) : MovesTo s r.toOut := by
  cases r with
  | served t => exact .next (h.1 t rfl)
  | stalled t => exact .next (h.2 t rfl)
  | fault f => exact .fault f
  | refused r => exact .refused r

theorem moves_reply (s : State) (bytes : List Byte) : Moves s (s.reply bytes) :=
  (Move.mem s _ _).one.trans (moves_ep0Send _ _ _)

theorem moves_statusIn (s : State) : Moves s s.statusIn := moves_ep0Send ..

theorem moves_beginConfiguration (s : State) (v : Byte) : Moves s (s.beginConfiguration v) :=
  (moves_ep0 s _).trans (.foldl (fun t e => moves_setStarved t e false) _ _)

theorem movesTo_returnSlot (k : SlotIx) (s : State) : MovesTo s (returnSlot k s) := by
  unfold returnSlot
  split
  · split
    · exact movesTo_poolReturn s _
    · exact .next (.refl s)
  · exact .next (.refl s)

theorem movesTo_returnAll (l : List Nat) (s : State) : MovesTo s (returnAll l s) :=
  .forEach (fun i t => movesTo_poolReturn t i) l s

theorem movesTo_tearDown (ep : Ep) (s : State) : MovesTo s (tearDown ep s) :=
  (movesTo_returnAll _ s).andThen fun t => (movesTo_returnAll _ t).andThen fun u =>
    .next (moves_setEndpoint u ep _ fun _ => .inl rfl)

theorem movesTo_tearDownAll (s : State) : MovesTo s (tearDownAll s) :=
  (MovesTo.forEach movesTo_returnSlot _ s).andThen fun t => .forEach movesTo_tearDown _ t

theorem moves_configureEp (s : State) (ep : Ep) (v : Byte) : Moves s (s.configureEp ep v) :=
  (Move.endpt s ep v).one.trans (moves_setEndpoint _ ep _ fun h => h)

theorem moves_unarmEp (s : State) (ep : Ep) : Moves s (s.unarmEp ep) :=
  (moves_setDesc s _ _ .unarmed).trans ((moves_setDesc _ _ _ .unarmed).trans
    ((moves_setDesc _ _ _ .unarmed).trans (moves_setDesc _ _ _ .unarmed)))

theorem moves_provision (s : State) (ep : Ep) (b : Bank) : Moves s (s.provision ep b) := by
  have h := moves_allocate s (ep.setWidth 8)
  unfold State.provision
  split <;> rename_i heq <;> rw [heq] at h
  · exact h.trans (moves_armRx _ _ _ _)
  · exact h.trans (moves_setStarved _ _ _)

theorem moves_enableEp (s : State) (ep : Ep) : Moves s (s.enableEp ep) := by
  have h : Moves s ((s.configureEp ep (s.cfg.epConfig.get ep)).unarmEp ep) :=
    (moves_configureEp s ep _).trans (moves_unarmEp _ ep)
  unfold State.enableEp
  dsimp only
  split
  · exact h.trans ((moves_provision _ _ _).trans (moves_provision _ _ _))
  · exact h

theorem moves_enableAll (s : State) : Moves s s.enableAll := .foldl moves_enableEp _ s

theorem movesTo_setConfiguration (s : State) : MovesTo s s.setConfiguration :=
  MovesTo.andThen (.after (moves_beginConfiguration s _) (movesTo_tearDownAll _)) fun t =>
    .next ((moves_enableAll t).trans (moves_statusIn _))

theorem moves_setAddress (s : State) : Moves s s.setAddress := (moves_ep0 s _).trans (moves_statusIn _)

theorem reqMoves_getDescriptor (s : State) : ReqMoves s s.getDescriptor := by
  unfold State.getDescriptor
  split
  · exact .served (moves_ep0Send ..)
  · exact .stall s

theorem reqMoves_indexed {s : State} {i : Nat} {m : Bool} {k : Ep → ReqOut} (hk : ∀ e, ReqMoves s (k e)) :
    ReqMoves s (indexed s i m k) := .ite (.stall s) (.ite (.fault _) (hk _))

theorem reqMoves_getStatusEp (s : State) : ReqMoves s s.getStatusEp :=
  reqMoves_indexed fun _ => .served (moves_reply s _)

theorem reqMoves_featureEp (s : State) (v : Bool) : ReqMoves s (s.featureEp v) :=
  reqMoves_indexed fun e => .served ((Move.endpt s e _).one.trans (moves_statusIn _))

theorem reqMoves_classHooks (n : Nat) (s : State) : ReqMoves s (classHooks n s) := by
  induction n generalizing s with
  | zero => exact .stall s
  | succ n ih =>
    refine .after (.after (moves_nextClassAnswer s) (movesTo_runCalls _ _)) fun t =>
      .after (movesTo_hookTimer t _) fun u => ?_
    split
    · exact ih u
    · exact .ite (.refused _) (.served (moves_reply u _))
    · exact .served (.refl u)

theorem reqMoves_runRequest (s : State) : ReqMoves s s.runRequest := by
  unfold State.runRequest
  split
  · exact .served (moves_reply s _)
  · exact reqMoves_getStatusEp s
  · exact reqMoves_featureEp s _
  · exact reqMoves_featureEp s _
  · exact .served (moves_setAddress s)
  · exact reqMoves_getDescriptor s
  · exact .served (moves_reply s _)
  · exact .after (movesTo_setConfiguration s) fun t => .served (.refl t)
  · exact reqMoves_classHooks _ s

theorem movesTo_dispatchRequest (s : State) : MovesTo s s.dispatchRequest := by
  have h := reqMoves_runRequest s
  unfold State.dispatchRequest
  split <;> rename_i heq <;> rw [heq] at h
  · exact .next ((h.1 _ rfl).trans (moves_setPhase _ _))
  · exact .next ((h.2 _ rfl).trans ((moves_setPhase _ _).trans (moves_setOpen _ _)))
  · exact .fault _
  · exact .refused _

/-! ## Endpoint 0, the dispatcher -/

theorem moves_rearmEp0 (s : State) (k : SlotIx) : Moves s (s.rearmEp0 k) := moves_setDesc s k _ (.armed _ _)

theorem movesTo_ep0Setup (s : State) (k : SlotIx) : MovesTo s (s.ep0Setup k) := by
  refine .withSpan (.after ?_ (movesTo_dispatchRequest _))
  exact (moves_rearmEp0 s k).trans ((moves_setDesc _ _ _ .unarmed).trans
    ((moves_setDesc _ _ _ .unarmed).trans (moves_ep0 _ _)))

theorem movesTo_ep0Out (s : State) (k : SlotIx) : MovesTo s (s.ep0Out k) := by
  refine .withSpan (.andThen (.after (moves_nextOutAnswer s) (movesTo_runCalls _ _)) fun t =>
    .andThen (movesTo_hookTimer t _) fun u => .next ?_)
  refine Moves.trans (t := u.acknowledge s.nextOutAnswer.1.outcome) ?_
    ((moves_rearmEp0 _ k).trans ((moves_setPhase _ _).trans (moves_setOpen _ _)))
  unfold State.acknowledge
  split
  · exact moves_ep0Transmit ..
  · exact .refl u
  · exact .refl u

theorem movesTo_clearSuspend {s : State} {o : Out} (h : MovesTo s o) : MovesTo s (clearSuspend o) :=
  h.andThen fun t => .next (moves_writeCtl t _)

theorem movesTo_ep0Handle (s : State) (st : Byte) : MovesTo s (s.ep0Handle st) := by
  refine movesTo_clearSuspend ?_
  unfold State.ep0Sub
  split
  · exact movesTo_ep0Setup s _
  · exact movesTo_ep0Out s _
  · exact .next (moves_ep0In s)
  · exact .next (.refl s)

theorem movesTo_releaseSent (s : State) (k : SlotIx) : MovesTo s (s.releaseSent k) :=
  .ite (.refused _) (movesTo_release s _)

theorem movesTo_txdone (s : State) (ep : Ep) (b : Bank) (k : SlotIx) : MovesTo s (s.txdone ep b k) :=
  (movesTo_releaseSent s k).andThen fun t => .next (moves_completeTx t ep b)

theorem moves_replaceRx (s : State) (ep : Ep) (b : Bank) (k : SlotIx) : Moves s (s.replaceRx ep b k) := by
  have h := moves_allocate s (ep.setWidth 8)
  unfold State.replaceRx
  split <;> rename_i heq <;> rw [heq] at h
  · exact h.trans (moves_armRx _ _ _ _)
  · exact h.trans ((moves_setDesc _ _ _ .unarmed).trans (moves_setStarved _ _ _))

theorem movesTo_rxData (s : State) (ep : Ep) (b : Bank) (k : SlotIx) : MovesTo s (s.rxData ep b k) := by
  unfold State.rxData
  split
  · exact .refused _
  · exact MovesTo.andThen (.after (moves_setPkt s _ _) (movesTo_rxEnqueue _ _ _)) fun t =>
      .next (moves_replaceRx t ep b k)

theorem movesTo_rxdone (s : State) (ep : Ep) (b : Bank) (k : SlotIx) : MovesTo s (s.rxdone ep b k) :=
  .ite (.next (moves_setDesc s k _ (.armed _ _))) (movesTo_rxData s ep b k)

theorem movesTo_route (s : State) (st : Byte) : MovesTo s (s.route st) := by
  unfold State.route
  split
  · exact movesTo_ep0Handle s st
  · split
    · exact .next (.refl s)
    · split
      · exact movesTo_txdone s _ _ _
      · exact movesTo_rxdone s _ _ _

theorem moves_countdown (s : State) : Moves s s.countdown := by
  unfold State.countdown
  split
  · exact .refl s
  · split
    · exact (moves_ctx s (s.setTimer 0).ctx (.inl (Nat.zero_le _))).trans (Move.env _ _).one
    · exact moves_ctx s (s.setTimer (s.ctx.rebootTimer - 1)).ctx (.inl (Nat.sub_le _ _))

theorem movesTo_irqSof (s : State) : MovesTo s s.irqSof := by
  refine MovesTo.andThen ?_ fun t => .next (Move.clear t _).one
  split
  · exact .after (moves_countdown s) (movesTo_tickHook _)
  · exact .next (.refl s)

theorem moves_usedStat (s : State) : Moves s s.usedStat := by
  unfold State.usedStat
  split
  · exact (Move.env s _).one
  · exact .refl s

theorem movesTo_irqTokdne (s : State) : MovesTo s s.irqTokdne :=
  MovesTo.andThen (.after (moves_usedStat s) (movesTo_route _ _)) fun t => .next (Move.clear t _).one

theorem moves_resetEp0Slots (s : State) : Moves s s.resetEp0Slots :=
  (moves_arm ..).trans ((moves_arm ..).trans ((moves_setDesc _ _ _ .unarmed).trans (moves_setDesc _ _ _ .unarmed)))

theorem moves_resetRegs (s : State) : Moves s s.resetRegs := by
  refine Moves.trans (t := ((s.setEndptReg 0 0x0D).clearErrStat 0xFF).clearIstat 0xFF) ?_ ?_
  · exact (Move.endpt s _ _).one.trans ((moves_clearErrStat _ _).trans (Move.clear _ _).one)
  · exact (Move.drop _).one.trans (moves_regs _ s.resetRegs.regs rfl rfl rfl)

theorem moves_irqReset (s : State) : Moves s s.irqReset :=
  (moves_writeCtl s 0x02).trans ((moves_ep0 _ { s.ep0 with txBank := .even }).trans
    ((moves_resetEp0Slots _).trans ((moves_resetRegs _).trans ((moves_writeCtl _ _).trans
      ((moves_setPhase _ _).trans (moves_setOpen _ _))))))

theorem moves_irqStall (s : State) : Moves s s.irqStall := (Move.endpt s _ _).one.trans (Move.clear _ _).one

theorem moves_irqError (s : State) : Moves s s.irqError :=
  (moves_ctx s { s.ctx with errSnapshot := s.regs.errStat } (.inl (Nat.le_refl _))).trans
    ((moves_clearErrStat _ _).trans (Move.clear _ _).one)

theorem movesTo_isrPass (s : State) (p : IsrPoint) (v : Byte) : MovesTo s (s.isrPass p v) := by
  unfold State.isrPass
  dsimp only
  refine .ite ?_ (.ite ?_ (.ite ?_ (.ite ?_ (.ite ?_ (.ite ?_ ?_)))))
  · exact (movesTo_irqSof s).andThen fun t => .next (moves_isrAt t _ _)
  · exact (movesTo_irqTokdne s).andThen fun t => .next (moves_isrAt t _ _)
  · exact .next ((moves_irqReset s).trans (moves_leaveIsr _))
  · exact .next ((moves_irqStall s).trans (moves_isrAt _ _ _))
  · exact .next ((moves_irqError s).trans (moves_isrAt _ _ _))
  · exact .next ((Move.clear s _).one.trans (moves_leaveIsr _))
  · exact .next (moves_leaveIsr s)

theorem movesTo_isrStep (s : State) : MovesTo s s.isrStep := movesTo_isrPass s _ _

theorem movesTo_irqEntry (s : State) : MovesTo s (execIrqEntry s) :=
  .ite (movesTo_isrStep s) (.ite (.after (moves_enterIsr s) (movesTo_isrStep _)) (.next (.refl s)))

/-! ## The link -/

theorem moves_answerStall (s : State) : Moves s s.answerStall := (Move.raise s 0x80 (by decide)).one

/-- A token's effect is made only under the gates: the endpoint exists and the status queue has room. -/
theorem movesTo_token {s : State} {ep : Byte} {d : Dir} {k : Out}
    (h : ep.toNat ≤ s.cfg.nEp.toNat → s.regs.statFifo.length < s.cfg.statDepth → MovesTo s k) :
    MovesTo s (s.token ep d k) := by
  unfold State.token
  split
  · exact .next (.refl s)
  · rename_i hg
    simp only [State.linkReady, State.linkEp, Bool.not_eq_true', Bool.not_eq_false, Bool.and_eq_true,
      decide_eq_true_eq] at hg
    refine .ite (.next (moves_answerStall s)) (.ite (.next (.refl s)) (.ite (.next (.refl s))
      (.ite (.next (moves_answerStall s)) (h hg.2 hg.1.2))))

theorem moves_complete (s : State) (ep : Ep) (d : Dir) (he : ep.toNat ≤ s.cfg.nEp.toNat)
    (hl : s.regs.statFifo.length < s.cfg.statDepth) : Moves s (s.complete ep d) :=
  (Move.push s ep d _ he hl).one.trans (moves_banks _ _)

theorem epOf_le {ep : Byte} {n : Nat} (h : ep.toNat ≤ n) : (epOf ep).toNat ≤ n := by
  have : (epOf ep).toNat = ep.toNat % 16 := by simp [epOf]
  omega

theorem movesTo_linkSetup (data : List Byte) (s : State) : MovesTo s (execLinkSetup data s) := by
  refine movesTo_token fun he hl => .ite (.next (.refl s)) (.withReceive (.next ?_))
  exact (Move.mem s _ data).one.trans ((moves_setDesc _ _ _ (.completed _ _ _)).trans
    ((moves_suspend _).trans (moves_complete _ 0 .rx (Nat.zero_le _) hl)))

theorem movesTo_linkOut (ep : Byte) (tog : Toggle) (data : List Byte) (s : State) :
    MovesTo s (execLinkOut ep tog data s) := by
  refine movesTo_token fun he hl => .ite (.next (.refl s)) (.withReceive (.next ?_))
  exact (Move.mem s _ data).one.trans ((moves_setDesc _ _ _ (.completed _ _ _)).trans
    (moves_complete _ _ .rx (epOf_le he) hl))

theorem movesTo_linkIn (ep : Byte) (s : State) : MovesTo s (execLinkIn ep s) := by
  refine movesTo_token fun he hl => .withSpan (.next ?_)
  exact (Move.env s _).one.trans ((moves_setDesc _ _ _ (.completed _ _ _)).trans
    (moves_complete _ _ .tx (epOf_le he) hl))

theorem movesTo_linkError (m : Byte) (s : State) : MovesTo s (execLinkError m s) := by
  have h : Moves s (s.latchErrors m) := moves_regs s _ rfl rfl rfl
  refine .next ?_
  split
  · exact .refl s
  · split
    · exact h.trans (Move.raise _ 0x02 (by decide)).one
    · exact h

/-! ## The table -/

/-- What arming a slot from outside does: the slot written, or a refusal. -/
theorem armOutside_next {s t : State} {k : SlotIx} {v : Slot} (h : s.armOutside k v = .next t) :
    t = s.setSlot k v := by
  unfold State.armOutside at h
  split at h
  · injection h
  · split at h
    · injection h
    · split at h
      · injection h
      · injection h with h; exact h.symm

theorem movesTo_armOutside {s : State} {k : SlotIx} {v : Slot} (hv : IsRuleWord v.desc) :
    MovesTo s (s.armOutside k v) := by
  intro t h
  rw [armOutside_next h]
  exact (Move.slot s k v hv).one

theorem movesTo_completeSlot (s : State) (k : SlotIx) (n : BitVec 10) (kind : TokKind) :
    MovesTo s (s.completeSlot k n kind) := by
  refine .ite (.next (.refl s)) ?_
  split
  · exact .ite (movesTo_linkSetup _ s) (.next (.refl s))
  · exact movesTo_linkOut _ _ _ s
  · exact movesTo_linkIn _ s
  all_goals exact .next (.refl s)

/-! ## Steps -/

/-- Every operation a trace or a table write can spell moves the state by moves, an armed word with other flags than a
rule's apart. -/
theorem movesTo_exec (i : Instr) (s : State)
    (h : (encode i).1 = .cmd8 ∨ (encode i).1 = .link8 ∨ (encode i).1 = .desc32)
    (hf : ∀ k n b, i = .descArmed k n b → b.flags = 0b0010) : MovesTo s (exec i s) := by
  cases i <;> first
    | (exfalso; revert h; simp [encode]; done)
    | skip
  case busInit => exact .ite (.refused _) (.ite (.refused _) (.next (Move.init s).one))
  case irqEntry => exact movesTo_irqEntry s
  case alloc ep => exact .next ((moves_allocShared s).trans (moves_setResult _ _))
  case allocSeg ep => exact .next ((moves_allocSegregated s ep).trans (moves_setResult _ _))
  case release p => exact movesTo_execRelease p s
  case txSubmit ep p => exact movesTo_txSubmit ep p s
  case isoSubmit ep a n => exact movesTo_isoSubmit ep a n s
  case rxDequeue ep => exact .next ((moves_rxPop s ep).trans (moves_setResult _ _))
  case rxBytes ep => exact .next (moves_setResult s _)
  case txPkts ep => exact .next (moves_setResult s _)
  case rxPkts ep => exact .next (moves_setResult s _)
  case csEnter => exact .ite (.refused _) (.next (moves_ctx s _ (.inl (Nat.le_refl _))))
  case csExit => exact .ite (.next (moves_ctx s _ (.inl (Nat.le_refl _)))) (.refused _)
  case ep0Transmit a n => exact movesTo_ep0Transmit a n s
  case setRebootTimer n => exact movesTo_armTimer s _
  case bdtWrite ep d b n t a =>
    exact .ite (.refused _) (movesTo_armOutside (.armed n t))
  case bdtReadc ep d b => exact .ite (.refused _) (.ite (.refused _) (.next (moves_setResult s _)))
  case linkSetup data => exact movesTo_linkSetup data s
  case linkOut ep t data => exact movesTo_linkOut ep t data s
  case linkIn ep => exact movesTo_linkIn ep s
  case linkSof => exact .next (by split; exacts [(Move.raise s 0x04 (by decide)).one, .refl s])
  case linkReset => exact .next (by split; exacts [(Move.raise s 0x01 (by decide)).one, .refl s])
  case linkError m => exact movesTo_linkError m s
  case linkSleep => exact .next (by split; exacts [(Move.raise s 0x10 (by decide)).one, .refl s])
  case linkStalled ep => exact .next (by split; exacts [moves_answerStall s, .refl s])
  case linkNak ep d => exact .next (.refl s)
  case descArmed k n b =>
    obtain ⟨t, f⟩ := b
    cases hf k n _ rfl
    exact .ite (.refused _) (movesTo_armOutside (.armed n t))
  case descCompleted k n t tok => exact .ite (movesTo_completeSlot s k n _) (.next (.refl s))
  case descUnarmed k => exact .ite (.refused _) (.ite (.refused _) (.next (moves_setDesc s k _ .unarmed)))

theorem movesTo_foreground {s : State} {o : Out} (h : MovesTo s o) : MovesTo s (foreground s o) :=
  .ite (movesTo_isrStep s) h

theorem movesTo_lineStep {s : State} {i : Instr} {rest : List Input} (a : Agent)
    (h : MovesTo s (exec i (s.setTrace rest))) : MovesTo s (lineStep a i rest s) := by
  unfold lineStep
  split
  · exact movesTo_foreground h
  · exact h
  · exact h

/-- A decoded armed word carries the word's flags. -/
theorem decodeDesc_flags {k j : SlotIx} {w : Word} {n : BitVec 10} {b : ArmedBits}
    (h : decodeDesc k w = .descArmed j n b) : classifyDesc w = .armed ∧ b.flags = descFlags w ∧ j = k := by
  unfold decodeDesc at h
  split at h <;> rename_i hc
  · injection h with h1 h2 h3; exact ⟨hc, congrArg ArmedBits.flags h3.symm, h1.symm⟩
  · injection h
  · injection h

/-- A step of a pending item moves the state by moves, unless the item is an armed word with other flags than a
rule's. -/
theorem movesTo_itemStep (x : Input) (rest : List Input) (s : State)
    (hx : ∀ k w, x = .descWord k w → classifyDesc w = .armed → descFlags w = 0b0010) :
    MovesTo s (itemStep x rest s) := by
  have trace : ∀ i, ((encode i).1 = .cmd8 ∨ (encode i).1 = .link8 ∨ (encode i).1 = .desc32) →
      (∀ k n b, i = .descArmed k n b → b.flags = 0b0010) → MovesTo s (exec i (s.setTrace rest)) := fun i hi hf =>
    .after (moves_setTrace s rest) (movesTo_exec i _ hi hf)
  cases x with
  | line bytes =>
    unfold itemStep
    dsimp only
    split
    · rename_i i hi
      have ht := decodeLine_isTrace hi
      refine movesTo_lineStep _ (trace i (by rcases ht with h | h; exacts [.inl h, .inr (.inl h)]) ?_)
      rintro k n b rfl
      rcases ht with h | h <;> simp [encode] at h
    · exact .next (moves_setTrace s rest)
  | descWord k w =>
    refine movesTo_lineStep _ (trace _ (.inr (.inr (decodeDesc_isDesc k w))) ?_)
    intro j n b h
    obtain ⟨hc, hf, -⟩ := decodeDesc_flags h
    exact hf.trans (hx k w rfl hc)
  | app a => exact movesTo_foreground (.after (moves_setTrace s rest) (movesTo_appStep a _))

/-- What a step can do: a chain of moves, where the next item is no armed word with other flags than a rule's. -/
theorem step_moves {s t : State} (hs : s.plainItem) (h : step s = .next t) : Moves s t := by
  have hm : MovesTo s (step s) := by
    unfold step agentStep
    split
    · rename_i x rest hx
      exact movesTo_itemStep _ _ s fun k w e => hs k w rest (e ▸ hx)
    · exact movesTo_irqEntry s
  exact hm t h

/-- What any step can do: a chain of moves, or one slot written with an armed word. -/
theorem step_cases {s t : State} (h : step s = .next t) :
    Moves s t ∨ ∃ rest k n tog f a, t = (s.setTrace rest).setSlot k ⟨armedForm n tog f, a⟩ := by
  by_cases hs : s.plainItem
  · exact .inl (step_moves hs h)
  · unfold State.plainItem at hs
    push Not at hs
    obtain ⟨k, w, rest, htr, hc, -⟩ := hs
    unfold step agentStep at h
    rw [htr] at h
    simp only [itemStep, lineStep, agentOfWord, decodeDesc, foreground, hc] at h
    split at h
    · exact .inl (movesTo_isrStep s t h)
    · unfold exec execDescArmed at h
      dsimp only at h
      split at h
      · injection h
      · exact .inr ⟨rest, _, _, _, _, _, armOutside_next h⟩

theorem Moves.keeps {P : State → Prop} (hp : ∀ s t, Move s t → P s → P t) {s t : State} (hs : P s)
    (hm : Moves s t) : P t := by
  induction hm with
  | refl => exact hs
  | tail _ hb ih => exact hp _ _ hb ih

/-- An invariant that every move keeps, and an armed word written to a slot, is kept by every step. -/
theorem step_keeps {P : State → Prop} (hp : ∀ s t, Move s t → P s → P t)
    (ha : ∀ s k n tog f a, P s → P (s.setSlot k ⟨armedForm n tog f, a⟩)) {s t : State} (hs : P s)
    (h : step s = .next t) : P t := by
  rcases step_cases h with hm | ⟨rest, k, n, tog, f, a, rfl⟩
  · exact hm.keeps hp hs
  · exact ha _ _ _ _ _ _ ((moves_setTrace s rest).keeps hp hs)

/-- An invariant that every move keeps is kept by every step whose item is no armed word with other flags than a
rule's. -/
theorem step_keeps_plain {P : State → Prop} (hp : ∀ s t, Move s t → P s → P t) {s t : State} (hi : s.plainItem)
    (hs : P s) (h : step s = .next t) : P t := (step_moves hi h).keeps hp hs

end Sys2Proof.Machine
end

