-- ==== Sys2Proof/Laws/Ops.lean ====
section
/-! SUPPORT. One lemma per shared operation that says what it does: the outcomes in sequence, a buffer access,
a caller's writes, a completed word, the pool, release and redirection, the bank choice, the transmit path of endpoint 0, Stall0, the interrupt's
entry and return, a token. -/

namespace Sys2Proof.Machine

/-! ## Outcomes -/

@[simp] theorem andThen_next (s : State) (k : State → Out) : andThen (.next s) k = k s := rfl
@[simp] theorem andThen_fault (f : Fault) (k : State → Out) : andThen (.fault f) k = .fault f := rfl
@[simp] theorem andThen_refused (r : Refusal) (k : State → Out) : andThen (.refused r) k = .refused r := rfl

/-- A sequence answers next exactly when both parts do. -/
theorem andThen_eq_next {o : Out} {k : State → Out} {t : State} :
    andThen o k = .next t ↔ ∃ u, o = .next u ∧ k u = .next t := by
  cases o <;> simp

/-- The table begins at `BDT_BASE` (spec/20_memory.md R75). -/
theorem tableSpan_eq (c : Config) : c.tableSpan = (c.bdtBase.toNat, c.bdtBytes) := rfl

/-- Slot `k` of the table is 8 bytes inside it, 8-byte aligned where `BDT_BASE` is (spec/20_memory.md R72, R75). -/
theorem slot_in_table {c : Config} {k : Nat} (h : k < c.slotCount) :
    spanInside (c.slotAddr k, 8) c.tableSpan = true ∧ (c.bdtBase.toNat % 8 = 0 → c.slotAddr k % 8 = 0) := by
  refine ⟨?_, fun h8 => ?_⟩
  · simp [spanInside, Config.tableSpan, Config.slotAddr, Config.bdtBytes]
    omega
  · simp only [Config.slotAddr]
    omega

/-- A buffer access goes on exactly when its span is inside the space and apart from the table. -/
theorem withSpan_eq_next {c : Config} {a : Word} {n : Nat} {k : Out} {t : State} :
    withSpan c a n k = .next t ↔
      a.toNat + n ≤ 2 ^ 32 ∧ spansApart (a.toNat, n) (c.bdtBase.toNat, c.bdtBytes) = true ∧ k = .next t := by
  unfold withSpan
  rw [tableSpan_eq]
  split
  · simp; omega
  · split
    · simp [*]; omega
    · simp [*]

/-- A buffer access inside the space and apart from the table. -/
theorem withSpan_ok {c : Config} {a : Word} {n : Nat} {k : Out} (h1 : a.toNat + n ≤ 2 ^ 32)
    (h2 : spansApart (a.toNat, n) (c.bdtBase.toNat, c.bdtBytes) = true) : withSpan c a n k = k := by
  unfold withSpan
  rw [if_neg (by omega), tableSpan_eq, if_pos h2]

/-- What a receive completion's store needs: a span inside the space, apart from the table and the store. -/
theorem withReceive_eq_next {s : State} {a : Word} {n : Nat} {k : Out} {t : State} :
    s.withReceive a n k = .next t ↔ Storable s a n ∧ k = .next t := by
  unfold State.withReceive Storable Reachable
  split
  · rw [withSpan_eq_next]; simp [*, and_assoc]
  · simp [*]

/-- What an application's store needs: a span inside the space, where a collaborator may store, and apart from the bytes
the link has still to read (spec/20_memory.md R70, R86, spec/44_control_transfer.md R269, spec/70_reset_and_hazards.md
R386 (f)). -/
theorem appStore_eq_next {s t : State} {a : Word} {bs : List Byte} :
    s.appStore a bs = .next t ↔
      a.toNat + bs.length ≤ 2 ^ 32 ∧ s.mayStore a bs.length = true ∧
        s.notPending a bs.length = true ∧ t = s.store a bs := by
  unfold State.appStore
  split
  · simp; omega
  · split
    · simp_all
    · split
      · simp_all
      · simp_all only [Host.Outcome.next.injEq]
        exact ⟨fun h => ⟨by omega, by simp_all, by simp_all, h.symm⟩, fun h => h.2.2.2.symm⟩

/-- What a caller's write of a slot needs (spec/30_encoding.md R119 (h), spec/20_memory.md R83, spec/60_exceptions.md
R345). -/
theorem armOutside_eq_next {s t : State} {k : SlotIx} {v : Slot} :
    s.armOutside k v = .next t ↔
      s.slotBusy k = false ∧ s.fitsBuffer v.addr (descCount v.desc).toNat = true ∧
        s.linkMayUse k v.addr (descCount v.desc) = true ∧ t = s.setSlot k v := by
  unfold State.armOutside
  split
  · simp_all
  · split
    · simp_all
    · split
      · simp_all
      · simp_all only [Host.Outcome.next.injEq]
        exact ⟨fun h => ⟨by simp_all, by simp_all, by simp_all, h.symm⟩, fun h => h.2.2.2.symm⟩

/-- TXDONE's RELEASE of a packet that no other slot's completion holds is RELEASE (spec/45_dispatcher.md R306). -/
theorem releaseSent_eq {s : State} {k : SlotIx} (h : ∀ i, s.pktOfAddr (s.slot k).addr = some i →
    s.pktCompletingElse k i = false) : s.releaseSent k = s.release (s.pktOfAddr (s.slot k).addr) := by
  unfold State.releaseSent
  dsimp only
  cases hp : s.pktOfAddr (s.slot k).addr with
  | none => rfl
  | some i => simp [h i hp]

/-- What RXQ.ENQUEUE needs (spec/42_queues.md R191, spec/10_state.md R41). -/
theorem rxEnqueue_eq_next {s t : State} {ep : Ep} {i : Nat} :
    s.rxEnqueue ep i = .next t ↔
      s.pktQueued i = false ∧ s.pktFree i = false ∧ (s.pkt i).len ≠ 0 ∧ t = s.rxAppend ep i := by
  unfold State.rxEnqueue
  cases s.pktQueued i <;> cases s.pktFree i <;> by_cases h : (s.pkt i).len = 0 <;> simp [h, eq_comm]

/-- A completed word is no step of the link, or one of its three completions (spec/40_bdt_link.md R143). -/
theorem completeSlot_cases (s : State) (k : SlotIx) (n : BitVec 10) (kind : TokKind) :
    s.completeSlot k n kind = .next s ∨ (∃ data, s.completeSlot k n kind = execLinkSetup data s) ∨
      (∃ ep tog data, s.completeSlot k n kind = execLinkOut ep tog data s) ∨
      ∃ ep, s.completeSlot k n kind = execLinkIn ep s := by
  unfold State.completeSlot
  split
  · exact .inl rfl
  · split
    · split
      · exact .inr (.inl ⟨_, rfl⟩)
      · exact .inl rfl
    · exact .inr (.inr (.inl ⟨_, _, _, rfl⟩))
    · exact .inr (.inr (.inr ⟨_, rfl⟩))
    all_goals exact .inl rfl

/-! ## Slots -/

/-- `4·ep + 2·dir + bank` (spec/30_encoding.md R101). -/
theorem slotOf_toNat (e : Ep) (d : Dir) (b : Bank) :
    (slotOf e d b).toNat = 4 * e.toNat + 2 * d.bit.toNat + b.bit.toNat := by
  cases d <;> cases b <;> (revert e; decide)

theorem slotOf_inj {e f : Ep} {d g : Dir} {b c : Bank} :
    slotOf e d b = slotOf f g c ↔ e = f ∧ d = g ∧ b = c := by
  refine ⟨fun h => ?_, by rintro ⟨rfl, rfl, rfl⟩; rfl⟩
  have hn := congrArg BitVec.toNat h
  rw [slotOf_toNat, slotOf_toNat] at hn
  rw [BitVec.toNat_eq]
  cases d <;> cases g <;> cases b <;> cases c <;> simp [Dir.bit, Bank.bit] at hn ⊢ <;> omega

theorem epDir_toNat (e : Ep) (d : Dir) : (epDir e d).toNat = 2 * e.toNat + d.bit.toNat := by
  cases d <;> (revert e; decide)

theorem epDir_inj {e f : Ep} {d g : Dir} : epDir e d = epDir f g ↔ e = f ∧ d = g := by
  refine ⟨fun h => ?_, by rintro ⟨rfl, rfl⟩; rfl⟩
  have hn := congrArg BitVec.toNat h
  rw [epDir_toNat, epDir_toNat] at hn
  rw [BitVec.toNat_eq]
  cases d <;> cases g <;> simp [Dir.bit] at hn ⊢ <;> omega

/-- The slot a status byte names is the slot it was made of (spec/30_encoding.md R105). -/
@[simp] theorem statSlot_statOf (e : Ep) (d : Dir) (b : Bank) : statSlot (statOf e d b) = slotOf e d b := by
  cases d <;> cases b <;> (revert e; decide)

@[simp] theorem statEp_statOf (e : Ep) (d : Dir) (b : Bank) : statEp (statOf e d b) = e := by
  cases d <;> cases b <;> (revert e; decide)

@[simp] theorem statDir_statOf (e : Ep) (d : Dir) (b : Bank) : statDir (statOf e d b) = d := by
  cases d <;> cases b <;> (revert e; decide)

@[simp] theorem statBank_statOf (e : Ep) (d : Dir) (b : Bank) : statBank (statOf e d b) = b := by
  cases d <;> cases b <;> (revert e; decide)

/-! ## The allocator -/

/-- What pool_return does (spec/41_allocator.md R175). -/
theorem poolReturn_eq_next {s t : State} {i : Nat} :
    s.poolReturn i = .next t ↔ i < s.cfg.numBuffers ∧ s.pktFree i = false ∧ t = s.poolPut i := by
  unfold State.poolReturn
  split
  · simp; omega
  · split
    · simp [*]
    · rename_i h1 h2
      constructor
      · intro h; injection h with h; exact ⟨by omega, by simpa using h2, h.symm⟩
      · rintro ⟨_, _, rfl⟩; rfl

/-- pool_return changes nothing but the free structure. -/
theorem poolPut_pool (s : State) (i : Nat) : s.poolPut i = { s with pool := (s.poolPut i).pool } := by
  unfold State.poolPut
  split <;> rfl

/-- Allocation changes nothing but the free structure and the header of the packet returned. -/
theorem allocate_pool (s : State) (ep : Byte) : (s.allocate ep).2 = { s with pool := (s.allocate ep).2.pool } := by
  unfold State.allocate State.allocShared State.allocSegregated
  split
  · split <;> rfl
  · split
    · split <;> rfl
    · rfl

/-- What a redirection does (spec/41_allocator.md R178): arm EVEN, else ODD, else return the packet. -/
theorem redirect_cases (s : State) (ep : Ep) (i : Nat) :
    (s.rxUnarmed ep .even = true ∧ s.redirect ep i = .next (s.redirectTo ep .even i)) ∨
    (s.rxUnarmed ep .even = false ∧ s.rxUnarmed ep .odd = true ∧
      s.redirect ep i = .next (s.redirectTo ep .odd i)) ∨
    (s.rxUnarmed ep .even = false ∧ s.rxUnarmed ep .odd = false ∧
      s.redirect ep i = (s.setStarved ep false).poolReturn i) := by
  unfold State.redirect
  cases h1 : s.rxUnarmed ep .even <;> cases h2 : s.rxUnarmed ep .odd <;> simp

/-! ## The transmit path of endpoint 0 -/

/-- EP0.TRANSMIT arms the current bank and flips bank and toggle (spec/44_control_transfer.md R256). -/
theorem ep0Transmit_spec (s : State) (a : Word) (n : Nat) :
    (s.ep0Transmit a n).slot (slotOf 0 .tx s.ep0.txBank) = ⟨armedWord (BitVec.ofNat 10 n) s.ep0.txToggle, a⟩ ∧
    (s.ep0Transmit a n).ep0.txToggle = s.ep0.txToggle.flip ∧
    (s.ep0Transmit a n).ep0.txBank = s.ep0.txBank.flip ∧
    s.ep0Transmit a n = { s with bdt := (s.ep0Transmit a n).bdt, ep0 := (s.ep0Transmit a n).ep0 } ∧
    SameSlotsBut [slotOf 0 .tx s.ep0.txBank] s (s.ep0Transmit a n) := by
  refine ⟨Tab.get_set_self .., rfl, rfl, rfl, fun k hk => Tab.get_set_ne _ _ ?_⟩
  exact fun h => hk (List.mem_singleton.mpr h.symm)

/-- A reply shorter than `EP0_SIZE` is one packet (spec/44_control_transfer.md R257). -/
theorem ep0Send_short (s : State) (a : Word) (len : Nat)
    (h : min len s.ep0.setup.wLength.toNat < s.cfg.ep0Size) :
    s.ep0Send a len = s.ep0Transmit a (min len s.ep0.setup.wLength.toNat) := by
  unfold State.ep0Send State.ep0SendClamped endsReply
  simp [Nat.min_eq_left (Nat.le_of_lt h), h]

/-- EP0.SEND writes slots 2 and 3 and the control-transfer context only. -/
theorem ep0Send_frame (s : State) (a : Word) (len : Nat) :
    s.ep0Send a len = { s with bdt := (s.ep0Send a len).bdt, ep0 := (s.ep0Send a len).ep0 } := by
  have second : ∀ (u : State) (b : Word) (m : Nat),
      u.ep0SendSecond b m = { u with bdt := (u.ep0SendSecond b m).bdt, ep0 := (u.ep0SendSecond b m).ep0 } := by
    intro u b m
    unfold State.ep0SendSecond
    dsimp only
    split <;> rfl
  unfold State.ep0Send State.ep0SendClamped
  dsimp only
  split
  · rfl
  · rw [second]; rfl

/-- Stall0 writes `ENDPT[0]` = 0x0F and nothing else (spec/44_control_transfer.md R262). -/
theorem stallEp0_spec (s : State) :
    s.stallEp0.endptReg 0 = 0x0F ∧ SameEndptBut [0] s s.stallEp0 ∧
    s.stallEp0 = { s with regs := { s.regs with endpt := s.stallEp0.regs.endpt } } := by
  refine ⟨?_, fun e he => ?_, rfl⟩
  · rw [State.stallEp0, State.endptReg_setEndptReg, if_pos rfl]; rfl
  · rw [State.stallEp0, State.endptReg_setEndptReg, if_neg (fun h => he (List.mem_singleton.mpr h.symm))]

/-! ## The interrupt (spec/60_exceptions.md R349, R350) -/

/-- Taking the interrupt sets `in_isr` and puts the dispatcher at the top of its loop. -/
theorem enterIsr_spec (s : State) :
    s.enterIsr.ctx.inIsr = true ∧ s.enterIsr.ctx.isrPoint = .top ∧
    s.enterIsr = { s with ctx := { s.ctx with inIsr := true, isrPoint := .top, isrStatus := 0 } } :=
  ⟨rfl, rfl, rfl⟩

/-- Returning from it clears `in_isr`; nothing is restored. -/
theorem leaveIsr_spec (s : State) :
    s.leaveIsr.ctx.inIsr = false ∧
    s.leaveIsr = { s with ctx := { s.ctx with inIsr := false, isrPoint := .top, isrStatus := 0 } } := ⟨rfl, rfl⟩

/-! ## The link -/

/-- What a token does (spec/40_bdt_link.md R144, R151): nothing, a STALL, or the effect `k` under every gate. -/
theorem token_cases (s : State) (ep : Byte) (d : Dir) (k : Out) :
    s.token ep d k = .next s ∨ s.token ep d k = .next s.answerStall ∨
    (s.linkReady = true ∧ s.linkEp ep = true ∧ s.linkStalls (epOf ep) = false ∧
      s.linkEnabled (epOf ep) d = true ∧ descOwn (s.tokenDesc (epOf ep) d) = true ∧
      descStall (s.tokenDesc (epOf ep) d) = false ∧ s.token ep d k = k) := by
  unfold State.token
  cases h1 : s.linkReady <;> cases h2 : s.linkEp ep <;> cases h3 : s.linkStalls (epOf ep) <;>
    cases h4 : s.linkEnabled (epOf ep) d <;> cases h5 : descOwn (s.tokenDesc (epOf ep) d) <;>
    cases h6 : descStall (s.tokenDesc (epOf ep) d) <;> simp

/-- A token whose gates all hold has its effect. -/
theorem token_ok {s : State} {ep : Byte} {d : Dir} {k : Out} (h1 : s.linkReady = true) (h2 : s.linkEp ep = true)
    (h3 : s.linkStalls (epOf ep) = false) (h4 : s.linkEnabled (epOf ep) d = true)
    (h5 : descOwn (s.tokenDesc (epOf ep) d) = true) (h6 : descStall (s.tokenDesc (epOf ep) d) = false) :
    s.token ep d k = k := by
  simp [State.token, h1, h2, h3, h4, h5, h6]

/-- What `complete` does (spec/40_bdt_link.md R149). -/
theorem complete_spec (s : State) (ep : Ep) (d : Dir) :
    (s.complete ep d).regs.statFifo = s.regs.statFifo ++ [statOf ep d (s.bankOf ep d)] ∧
    (s.complete ep d).bankOf ep d = (s.bankOf ep d).flip ∧
    SameBanksBut ep d s (s.complete ep d) ∧
    s.complete ep d = { s with
      regs := { s.regs with statFifo := s.regs.statFifo ++ [statOf ep d (s.bankOf ep d)] },
      hwBank := s.hwBank.set (epDir ep d) (s.bankOf ep d).flip } := by
  refine ⟨rfl, Tab.get_set_self .., fun e g h => Tab.get_set_ne _ _ fun he => ?_, rfl⟩
  obtain ⟨h1, h2⟩ := epDir_inj.mp he
  exact h ⟨h1.symm, h2.symm⟩

end Sys2Proof.Machine
end

