-- ==== Sys2Proof/Laws/PerInstr.lean ====
section
/-! SUPPORT. The per-instruction family `Encoding`: every instruction's encoding has the shape of its row's
format (spec/30_encoding.md R100, R117, R118, R121). One lemma per constructor. -/

namespace Sys2Proof.Laws.Encoding

/-- The shape of a format: its fixed length, or a code byte below or above 0x80 and operands. -/
def Fits : Format → List Byte → Prop
  | .req16, bs => bs.length = 2
  | .tok4, bs => ∃ b, bs = [b] ∧ b.toNat < 16
  | .istat8, bs => ∃ k : Nat, k < 8 ∧ bs = [BitVec.twoPow 8 k]
  | .stat8, bs => bs.length = 1
  | .cmd8, bs => ∃ code rest, bs = code :: rest ∧ code.getLsbD 7 = false
  | .link8, bs => ∃ code rest, bs = code :: rest ∧ code.getLsbD 7 = true
  | .desc32, bs => bs.length = 4
  | .proc, bs => bs = []

/-- The encoding of `i` has the shape of its format. -/
def Statement (i : Instr) : Prop := Fits (encode i).1 (encode i).2

theorem reqGetStatusDev : Statement (.reqGetStatusDev) := rfl
theorem reqGetStatusEp : Statement (.reqGetStatusEp) := rfl
theorem reqClearFeatureEp : Statement (.reqClearFeatureEp) := rfl
theorem reqSetFeatureEp : Statement (.reqSetFeatureEp) := rfl
theorem reqSetAddress : Statement (.reqSetAddress) := rfl
theorem reqGetDescriptor (bmRequestType : Byte) : Statement (.reqGetDescriptor bmRequestType) := rfl
theorem reqGetConfiguration : Statement (.reqGetConfiguration) := rfl
theorem reqSetConfiguration : Statement (.reqSetConfiguration) := rfl
theorem reqOther (bRequest bmRequestType : Byte) : Statement (.reqOther bRequest bmRequestType) := rfl
theorem tokSetup (slot : SlotIx) : Statement (.tokSetup slot) := ⟨_, rfl, by decide⟩
theorem tokOut (slot : SlotIx) : Statement (.tokOut slot) := ⟨_, rfl, by decide⟩
theorem tokIn (slot : SlotIx) : Statement (.tokIn slot) := ⟨_, rfl, by decide⟩
theorem tokOther (slot : SlotIx) (tok : BitVec 4) : Statement (.tokOther slot tok) := ⟨_, rfl, by simp; omega⟩
theorem irqSof : Statement (.irqSof) := ⟨2, by decide, rfl⟩
theorem irqTokdne : Statement (.irqTokdne) := ⟨3, by decide, rfl⟩
theorem irqReset : Statement (.irqReset) := ⟨0, by decide, rfl⟩
theorem irqStall : Statement (.irqStall) := ⟨7, by decide, rfl⟩
theorem irqError : Statement (.irqError) := ⟨1, by decide, rfl⟩
theorem irqSleep : Statement (.irqSleep) := ⟨4, by decide, rfl⟩
theorem istResume : Statement (.istResume) := ⟨5, by decide, rfl⟩
theorem istAttach : Statement (.istAttach) := ⟨6, by decide, rfl⟩
theorem routeEp0 (stat : Byte) : Statement (.routeEp0 stat) := rfl
theorem routeTxdone (stat : Byte) : Statement (.routeTxdone stat) := rfl
theorem routeRxdoneZero (stat : Byte) : Statement (.routeRxdoneZero stat) := rfl
theorem routeRxdoneData (stat : Byte) : Statement (.routeRxdoneData stat) := rfl
theorem routeIgnore (stat : Byte) : Statement (.routeIgnore stat) := rfl
theorem busInit : Statement (.busInit) := ⟨_, _, rfl, rfl⟩
theorem irqEntry : Statement (.irqEntry) := ⟨_, _, rfl, rfl⟩
theorem alloc (ep : Byte) : Statement (.alloc ep) := ⟨_, _, rfl, rfl⟩
theorem allocSeg (ep : Byte) : Statement (.allocSeg ep) := ⟨_, _, rfl, rfl⟩
theorem release (pkt : BitVec 16) : Statement (.release pkt) := ⟨_, _, rfl, rfl⟩
theorem txSubmit (ep : Byte) (pkt : BitVec 16) : Statement (.txSubmit ep pkt) := ⟨_, _, rfl, rfl⟩
theorem isoSubmit (ep : Byte) (addr : Word) (n : BitVec 10) : Statement (.isoSubmit ep addr n) := ⟨_, _, rfl, rfl⟩
theorem rxDequeue (ep : Byte) : Statement (.rxDequeue ep) := ⟨_, _, rfl, rfl⟩
theorem rxBytes (ep : Byte) : Statement (.rxBytes ep) := ⟨_, _, rfl, rfl⟩
theorem txPkts (ep : Byte) : Statement (.txPkts ep) := ⟨_, _, rfl, rfl⟩
theorem rxPkts (ep : Byte) : Statement (.rxPkts ep) := ⟨_, _, rfl, rfl⟩
theorem csEnter : Statement (.csEnter) := ⟨_, _, rfl, rfl⟩
theorem csExit : Statement (.csExit) := ⟨_, _, rfl, rfl⟩
theorem ep0Transmit (addr : Word) (n : BitVec 10) : Statement (.ep0Transmit addr n) := ⟨_, _, rfl, rfl⟩
theorem setRebootTimer (n : BitVec 32) : Statement (.setRebootTimer n) := ⟨_, _, rfl, rfl⟩
theorem bdtWrite (ep : Byte) (dir : Dir) (bank : Bank) (n : BitVec 10) (tog : Toggle) (addr : Word) : Statement (.bdtWrite ep dir bank n tog addr) := ⟨_, _, rfl, rfl⟩
theorem bdtReadc (ep : Byte) (dir : Dir) (bank : Bank) : Statement (.bdtReadc ep dir bank) := ⟨_, _, rfl, rfl⟩
theorem linkSetup (data : List Byte) : Statement (.linkSetup data) := ⟨_, _, rfl, rfl⟩
theorem linkOut (ep : Byte) (tog : Toggle) (data : List Byte) : Statement (.linkOut ep tog data) := ⟨_, _, rfl, rfl⟩
theorem linkIn (ep : Byte) : Statement (.linkIn ep) := ⟨_, _, rfl, rfl⟩
theorem linkSof : Statement (.linkSof) := ⟨_, _, rfl, rfl⟩
theorem linkReset : Statement (.linkReset) := ⟨_, _, rfl, rfl⟩
theorem linkError (m : Byte) : Statement (.linkError m) := ⟨_, _, rfl, rfl⟩
theorem linkSleep : Statement (.linkSleep) := ⟨_, _, rfl, rfl⟩
theorem linkStalled (ep : Byte) : Statement (.linkStalled ep) := ⟨_, _, rfl, rfl⟩
theorem linkNak (ep : Byte) (dir : Dir) : Statement (.linkNak ep dir) := ⟨_, _, rfl, rfl⟩
theorem bdtClear : Statement (.bdtClear) := rfl
theorem linkComplete (ep : Ep) (dir : Dir) : Statement (.linkComplete ep dir) := rfl
theorem poolReturn (pkt : BitVec 16) : Statement (.poolReturn pkt) := rfl
theorem starvedTarget (pkt : BitVec 16) : Statement (.starvedTarget pkt) := rfl
theorem redirect (ep : Ep) (pkt : BitVec 16) : Statement (.redirect ep pkt) := rfl
theorem rxqEnqueue (ep : Ep) (pkt : BitVec 16) : Statement (.rxqEnqueue ep pkt) := rfl
theorem txqAppend (ep : Ep) (pkt : BitVec 16) : Statement (.txqAppend ep pkt) := rfl
theorem txqPop (ep : Ep) : Statement (.txqPop ep) := rfl
theorem txComplete (ep : Ep) (bank : Bank) : Statement (.txComplete ep bank) := rfl
theorem txCompleteTableA (st : TxState) (bank : Bank) : Statement (.txCompleteTableA st bank) := rfl
theorem txCompleteTableB (st : TxState) (bank : Bank) : Statement (.txCompleteTableB st bank) := rfl
theorem teardownBankMap (st : TxState) : Statement (.teardownBankMap st) := rfl
theorem ep0Handle (stat : Byte) : Statement (.ep0Handle stat) := rfl
theorem ep0Setup (slot : SlotIx) : Statement (.ep0Setup slot) := rfl
theorem reqDispatch : Statement (.reqDispatch) := rfl
theorem ep0Send (addr : Word) (len : BitVec 32) : Statement (.ep0Send addr len) := rfl
theorem ep0In (slot : SlotIx) : Statement (.ep0In slot) := rfl
theorem ep0Out (slot : SlotIx) : Statement (.ep0Out slot) := rfl
theorem ep0Stall : Statement (.ep0Stall) := rfl
theorem route (stat : Byte) : Statement (.route stat) := rfl
theorem txdone (ep : Ep) (bank : Bank) (slot : SlotIx) : Statement (.txdone ep bank slot) := rfl
theorem rxdone (ep : Ep) (bank : Bank) (slot : SlotIx) : Statement (.rxdone ep bank slot) := rfl
theorem descArmed (slot : SlotIx) (count : BitVec 10) (bits : ArmedBits) :
    Statement (.descArmed slot count bits) := rfl
theorem descCompleted (slot : SlotIx) (count : BitVec 10) (tog : Toggle) (tok : BitVec 4) : Statement (.descCompleted slot count tog tok) := rfl
theorem descUnarmed (slot : SlotIx) : Statement (.descUnarmed slot) := rfl

end Sys2Proof.Laws.Encoding
end

