-- ==== Sys2Proof/Tests/Slice0.lean ====
section
/-! SUPPORT. The model's own tests: ill-formed terms, words written out from the spec's encodings, single steps on
small states with the values of spec/95_test_vectors.md (vector names in the comments), and for every obligation
with hypotheses a witness that meets them. -/

namespace Sys2Proof.Tests
open Sys2Proof Sys2Proof.Machine

/-! ## Helpers -/

/-- The outcome is a next state with property `p`. -/
def Next (o : Out) (p : State → Bool) : Bool :=
  match o with
  | .next t => p t
  | .fault _ => false
  | .refused _ => false

/-- The outcome is this refusal. -/
def Refuses (o : Out) (r : Refusal) : Bool :=
  match o with
  | .next _ => false
  | .fault _ => false
  | .refused q => q = r

/-- The outcome is this fault. -/
def Faults (o : Out) (f : Fault) : Bool :=
  match o with
  | .next _ => false
  | .fault g => g = f
  | .refused _ => false

/-- The state after reset with some parameters. -/
def withCfg (c : Config) : State := State.initial c

/-- The default parameters under Segregated. -/
def segregated : Config := { Config.default with allocStrategy := .segregated }

/-- State S1 of 95: the bus reset has been handled. -/
def s1 : State := State.reset.irqReset

/-- `s` with the free map `m`. -/
def withMap (s : State) (m : Word) : State := { s with pool := { s.pool with freeMap := m } }

/-- `s` with `configuration` = `v`. -/
def configured (s : State) (v : Byte) : State := { s with ep0 := { s.ep0 with configuration := v } }

/-- `s` with the captured `setup` of these bytes. -/
def withSetup (s : State) (bs : List Byte) : State := { s with ep0 := { s.ep0 with setup := decodeSetup bs } }

/-- `s` with `stat_fifo` = `l`. -/
def withFifo (s : State) (l : List Byte) : State := { s with regs := { s.regs with statFifo := l } }

/-- `s` with the stored flags `v` of `ISTAT`. -/
def withIstat (s : State) (v : Byte) : State := { s with regs := { s.regs with istat := v } }

/-- `s` inside the handler. -/
def inHandler (s : State) : State := { s with ctx := { s.ctx with inIsr := true } }

/-- `s` with the bank pointer of one endpoint and direction. -/
def withBank (s : State) (e : Ep) (d : Dir) (b : Bank) : State := s.setBank e d b

/-- `s` with the transmit state of an endpoint. -/
def withTx (s : State) (e : Ep) (v : TxState) (q : List Nat) : State :=
  s.setEndpoint e { s.endpoint e with txState := v, txq := q }

/-- Packets 2 and up of the shared pool are free: the application holds 0 and 1. -/
def holding : State := withMap State.reset 0x3FF00000

/-! ## Ill-formed terms: WellFormed refuses each -/

theorem test_wf_refuses_request :
    WellFormed Config.default (.reqGetDescriptor 0x82) = false ∧
    WellFormed Config.default (.reqOther 0x09 0x00) = false ∧
    WellFormed Config.default (.reqOther 0x06 0x80) = false := by decide

theorem test_wf_refuses_token :
    WellFormed Config.default (.tokSetup 4) = false ∧ WellFormed Config.default (.tokOut 4) = false ∧
    WellFormed Config.default (.tokIn 4) = false ∧ WellFormed Config.default (.tokOther 4 0x3) = false ∧
    WellFormed Config.default (.tokOther 0 0x9) = false := by decide

theorem test_wf_refuses_route :
    WellFormed Config.default (.routeEp0 0x10) = false ∧ WellFormed Config.default (.routeTxdone 0x20) = false ∧
    WellFormed Config.default (.routeTxdone 0x58) = false ∧
    WellFormed Config.default (.routeRxdoneZero 0x28) = false ∧
    WellFormed Config.default (.routeRxdoneData 0x0C) = false ∧
    WellFormed Config.default (.routeIgnore 0x40) = false := by decide

theorem test_wf_refuses_command :
    WellFormed Config.default (.allocSeg 1) = false ∧ WellFormed segregated (.alloc 1) = false ∧
    WellFormed Config.default (.linkSetup [0, 0, 0, 0, 0, 0, 0]) = false ∧
    ∀ data : List Byte, data.length = 1024 → WellFormed Config.default (.linkOut 1 .data0 data) = false :=
  ⟨by decide, by decide, by decide, fun data h => by simp [WellFormed, h]⟩

theorem test_wf_refuses_procedure :
    WellFormed Config.default (.linkComplete 5 .rx) = false ∧ WellFormed Config.default (.poolReturn 12) = false ∧
    WellFormed Config.default (.starvedTarget 12) = false ∧ WellFormed Config.default (.redirect 0 1) = false ∧
    WellFormed Config.default (.rxqEnqueue 5 1) = false ∧ WellFormed Config.default (.txqAppend 1 12) = false ∧
    WellFormed Config.default (.txqPop 0) = false ∧ WellFormed Config.default (.txComplete 5 .even) = false ∧
    WellFormed Config.default (.ep0Handle 0x10) = false ∧ WellFormed Config.default (.ep0Setup 2) = false ∧
    WellFormed Config.default (.ep0In 1) = false ∧ WellFormed Config.default (.ep0Out 3) = false ∧
    WellFormed Config.default (.txdone 0 .even 2) = false ∧
    WellFormed Config.default (.rxdone 5 .even 20) = false := by decide

theorem test_wf_refuses_descriptor :
    WellFormed Config.default (.descArmed 20 0 ⟨.data0, 0b0010⟩) = false ∧
    WellFormed Config.default (.descCompleted 20 1 .data0 0x1) = false ∧
    WellFormed Config.default (.descCompleted 0 0 .data0 0x0) = false ∧
    WellFormed Config.default (.descUnarmed 20) = false := by decide

/-- The default parameters satisfy their own conditions, under either strategy. -/
theorem test_config_wf : Config.default.wf = true ∧ segregated.wf = true := by decide

/-! ## Words written out from 30_encoding.md -/

/-- VE1 and VE2: armed and completed words. -/
theorem test_descriptor_words :
    armedWord 0 .data0 = 0x00000088 ∧ armedWord 0 .data1 = 0x000000C8 ∧ armedWord 10 .data1 = 0x000A00C8 ∧
    armedWord 1023 .data1 = 0x03FF00C8 ∧ completedWord 8 .data0 0xD = 0x00080034 ∧
    completedWord 0 .data1 0x1 = 0x00000044 ∧ completedWord 18 .data1 0x9 = 0x00120064 ∧
    descOwn 0x00120064 = false ∧ descCount 0x00120064 = 18 ∧ descTog 0x00120064 = .data1 ∧
    descTok 0x00120064 = 0x9 := by decide

/-- VE3: slots and status bytes; R101: the inverse of the slot index. -/
theorem test_slots_and_status :
    slotOf 1 .rx .odd = 5 ∧ slotOf 3 .rx .odd = 13 ∧ slotOf 4 .tx .odd = 19 ∧ statOf 0 .tx .odd = 0x0C ∧
    statOf 2 .tx .even = 0x28 ∧ statOf 3 .rx .odd = 0x34 ∧ statSlot 0x34 = 13 ∧ statEp 0x34 = 3 ∧
    statDir 0x28 = .tx ∧ statBank 0x2C = .odd ∧ slotEp 19 = 4 ∧ slotDir 19 = .tx ∧ slotDir 13 = .rx ∧
    slotBank 13 = .odd := by decide

/-- R116: `tx_state` as a number, in the rule's order; 6 and 7 are no state. -/
theorem test_tx_state_numbers :
    [0#8, 1, 2, 3, 4, 5, 6, 7].map TxState.ofNumber =
      [some .bothFreeEvenFirst, some .bothFreeOddFirst, some .evenFree, some .oddFree, some .noneFreeEvenFirst,
        some .noneFreeOddFirst, none, none] ∧ TxState.number .noneFreeOddFirst = 5 := by decide

/-- R75, R71 (c): slot 13 of a table at 0x1000 is at 0x1068, `desc` before `addr`, low byte first. -/
theorem test_table_bytes :
    Config.default.slotAddr 13 = 0x1068 ∧ Config.default.descAddr 13 = 0x1068 ∧ Config.default.addrAddr 13 = 0x106C ∧
    Config.default.tableSpan = (0x1000, 160) ∧
    (List.range 8).map (fun k => (State.reset.setSlot 13 ⟨0x004000C8, 0x12345678⟩).tableByte (0x1068 + k)) =
      [0xC8, 0x00, 0x40, 0x00, 0x78, 0x56, 0x34, 0x12] := by decide

/-- VE4: request codes. -/
theorem test_request_codes :
    decodeReq Config.default 0x0680 = .reqGetDescriptor 0x80 ∧
    decodeReq Config.default 0x0681 = .reqGetDescriptor 0x81 ∧
    decodeReq Config.default 0x0500 = .reqSetAddress ∧ decodeReq Config.default 0x0900 = .reqSetConfiguration ∧
    decodeReq Config.default 0x0880 = .reqGetConfiguration ∧
    decodeReq Config.default 0x0080 = .reqGetStatusDev ∧ decodeReq Config.default 0x0082 = .reqGetStatusEp ∧
    decodeReq Config.default 0x0102 = .reqClearFeatureEp ∧
    decodeReq Config.default 0x0302 = .reqSetFeatureEp ∧
    decodeReq Config.default 0x0A21 = .reqOther 0x0A 0x21 ∧
    decodeReq Config.default 0x0100 = .reqOther 0x01 0x00 ∧
    decodeReq Config.default 0x0682 = .reqOther 0x06 0x82 := by decide

/-- VE5: field assembly. -/
theorem test_setup_fields :
    (decodeSetup [0x00, 0x05, 0x34, 0x12, 0, 0, 0, 0]).wValue = 0x1234 ∧
    (decodeSetup [0x00, 0x05, 0x34, 0x12, 0, 0, 0, 0]).deviceAddress = 0x34 ∧
    (decodeSetup [0x80, 0x06, 0x00, 0x02, 0x09, 0x04, 0xFF, 0x00]).wValue = 0x0200 ∧
    (decodeSetup [0x80, 0x06, 0x00, 0x02, 0x09, 0x04, 0xFF, 0x00]).wIndex = 0x0409 ∧
    (decodeSetup [0x80, 0x06, 0x00, 0x02, 0x09, 0x04, 0xFF, 0x00]).wLength = 0x00FF := by decide

/-- R115: token kinds. -/
theorem test_token_kinds :
    decodeTok 0 0xD = .tokSetup 0 ∧ decodeTok 1 0x1 = .tokOut 1 ∧ decodeTok 2 0x9 = .tokIn 2 ∧
    decodeTok 3 0x5 = .tokOther 3 0x5 := by decide

/-- R106: one-hot conditions. -/
theorem test_conditions :
    decodeIst 0x04 = some .irqSof ∧ decodeIst 0x08 = some .irqTokdne ∧ decodeIst 0x01 = some .irqReset ∧
    decodeIst 0x80 = some .irqStall ∧ decodeIst 0x02 = some .irqError ∧ decodeIst 0x10 = some .irqSleep ∧
    decodeIst 0x20 = some .istResume ∧ decodeIst 0x40 = some .istAttach ∧ decodeIst 0x00 = none := by decide

/-- R105, R304: routes. -/
theorem test_routes :
    decodeStat Config.default 0 0x0C = .routeEp0 0x0C ∧ decodeStat Config.default 0 0x2C = .routeTxdone 0x2C ∧
    decodeStat Config.default 0 0x34 = .routeRxdoneZero 0x34 ∧
    decodeStat Config.default 1 0x34 = .routeRxdoneData 0x34 ∧
    decodeStat Config.default 1 0x50 = .routeIgnore 0x50 := by decide

/-- R117: command codes with their operands. -/
theorem test_command_lines :
    decodeLine Config.default [0x01] = .ok .busInit ∧ decodeLine Config.default [0x02] = .ok .irqEntry ∧
    decodeLine Config.default [0x10, 0x02] = .ok (.alloc 2) ∧ decodeLine segregated [0x10, 0x02] = .ok (.allocSeg 2) ∧
    decodeLine Config.default [0x11, 0x34, 0x12] = .ok (.release 0x1234) ∧
    decodeLine Config.default [0x20, 0x04, 0x0B, 0x00] = .ok (.txSubmit 4 11) ∧
    decodeLine Config.default [0x21, 0x04, 0x78, 0x56, 0x34, 0x12, 0xFF, 0x03] =
      .ok (.isoSubmit 4 0x12345678 1023) ∧
    decodeLine Config.default [0x30, 0x03] = .ok (.rxDequeue 3) ∧
    decodeLine Config.default [0x31, 0x03] = .ok (.rxBytes 3) ∧
    decodeLine Config.default [0x32, 0x02] = .ok (.txPkts 2) ∧
    decodeLine Config.default [0x33, 0x03] = .ok (.rxPkts 3) ∧ decodeLine Config.default [0x40] = .ok .csEnter ∧
    decodeLine Config.default [0x41] = .ok .csExit := by decide

theorem test_long_command_lines :
    decodeLine Config.default [0x50, 0x00, 0x40, 0x00, 0x00, 0x40, 0x00] = .ok (.ep0Transmit 0x4000 64) ∧
    decodeLine Config.default [0x51, 0xFF, 0x00, 0x00, 0x00] = .ok (.setRebootTimer 255) ∧
    decodeLine Config.default [0x60, 0x03, 0x00, 0x01, 0x40, 0x00, 0x01, 0xC0, 0x21, 0x00, 0x00] =
      .ok (.bdtWrite 3 .rx .odd 64 .data1 0x21C0) ∧
    decodeLine Config.default [0x61, 0x02, 0x01, 0x00] = .ok (.bdtReadc 2 .tx .even) := by decide

/-- R118: link events. -/
theorem test_link_lines :
    decodeLine Config.default [0x80, 0x00, 0x05, 0x05, 0, 0, 0, 0, 0] = .ok (.linkSetup [0x00, 0x05, 0x05, 0, 0, 0, 0, 0]) ∧
    decodeLine Config.default [0x81, 0x03, 0x01, 0x02, 0x00, 0x41, 0x42] = .ok (.linkOut 3 .data1 [0x41, 0x42]) ∧
    decodeLine Config.default [0x82, 0x02] = .ok (.linkIn 2) ∧ decodeLine Config.default [0x83] = .ok .linkSof ∧
    decodeLine Config.default [0x84] = .ok .linkReset ∧ decodeLine Config.default [0x85, 0x10] = .ok (.linkError 0x10) ∧
    decodeLine Config.default [0x86] = .ok .linkSleep ∧ decodeLine Config.default [0x87, 0x03] = .ok (.linkStalled 3) ∧
    decodeLine Config.default [0x88, 0x03, 0x01] = .ok (.linkNak 3 .tx) := by decide

/-- R119 (g): lines that spell nothing are rejected by name. -/
theorem test_rejected_lines :
    decodeLine Config.default [] = .error .truncated ∧ decodeLine Config.default [0x7F] = .error (.unknownCode 0x7F) ∧
    decodeLine Config.default [0x20, 0x04] = .error .truncated ∧
    decodeLine Config.default [0x61, 0x02, 0x02, 0x00] = .error .badOperand ∧
    decodeLine Config.default [0x50, 0, 0, 0, 0, 0x00, 0x04] = .error .badOperand ∧
    decodeLine Config.default [0x40, 0x00] = .error .trailing := by decide

/-- R102 to R104: descriptor words by form; R119 (e): reserved bits are ignored. -/
theorem test_descriptor_forms :
    decodeDesc 13 0x004000C8 = .descArmed 13 64 ⟨.data1, 0b0010⟩ ∧
    decodeDesc 2 0x00120064 = .descCompleted 2 18 .data1 0x9 ∧ decodeDesc 0 0 = .descUnarmed 0 ∧
    decodeDesc 0 0x00000080 = .descArmed 0 0 ⟨.data0, 0⟩ ∧ decodeDesc 0 0x80000000 = .descUnarmed 0 ∧
    decodeDesc 13 0xFC40FFCB = .descArmed 13 64 ⟨.data1, 0b0010⟩ := by decide

/-- The encoder on an instruction of each format. -/
theorem test_encode :
    encode (.isoSubmit 4 0x12345678 1023) = (.cmd8, [0x21, 0x04, 0x78, 0x56, 0x34, 0x12, 0xFF, 0x03]) ∧
    encode (.bdtWrite 3 .rx .odd 64 .data1 0x21C0) =
      (.cmd8, [0x60, 0x03, 0x00, 0x01, 0x40, 0x00, 0x01, 0xC0, 0x21, 0x00, 0x00]) ∧
    encode (.linkOut 3 .data1 [0x41, 0x42]) = (.link8, [0x81, 0x03, 0x01, 0x02, 0x00, 0x41, 0x42]) ∧
    encode (.descArmed 13 64 ⟨.data1, 0b0010⟩) = (.desc32, [0xC8, 0x00, 0x40, 0x00]) ∧
    encode .reqSetConfiguration = (.req16, [0x00, 0x09]) := by decide

/-! ## Single steps, by the vectors of 95_test_vectors.md -/

/-- 70 R382, state S0: the values after BUS.INIT. -/
theorem test_bus_init :
    Next (exec .busInit (configured State.reset 1)) (fun t =>
      t.ep0.configuration = 0 && t.regs.intEn = 0x01 && t.ctlReg = 0x01 && t.pool.freeMap = 0xFFF00000) = true ∧
    Refuses (exec .busInit (inHandler State.reset)) .busInitContext = true := by decide

/-- VA1, VA2: the lowest-numbered packet, and none. -/
theorem test_alloc :
    Next (exec (.alloc 2) State.reset) (fun t => t.env.result = .packet (some 0) && t.pool.freeMap = 0x7FF00000) = true ∧
    Next (exec (.alloc 2) (withMap State.reset 0x00100000)) (fun t =>
      t.env.result = .packet (some 11) && t.pool.freeMap = 0) = true ∧
    Next (exec (.alloc 2) (withMap State.reset 0)) (fun t => t.env.result = .packet none) = true := by decide

/-- VA10: segregated pools. -/
theorem test_alloc_segregated :
    Next (exec (.allocSeg 3) (withCfg segregated)) (fun t =>
      t.env.result = .packet (some 6) && t.pool.freeList.get 3 = [7, 8]) = true ∧
    Next (exec (.allocSeg 5) (withCfg segregated)) (fun t => t.env.result = .packet none) = true := by decide

/-- VA4, and 93 U12: a double release is refused. -/
theorem test_release :
    Next (exec (.release 2) (withMap State.reset 0x07F00000)) (fun t => t.pool.freeMap = 0x27F00000) = true ∧
    Refuses (exec (.release 2) State.reset) .packetFree = true := by decide

/-- VA7: EVEN first; the flag stays under `when_no_unarmed_slot`. -/
theorem test_redirect :
    Next (exec (.release 4) (configured ((withMap State.reset 0xF7F00000).setStarved 3 true) 1)) (fun t =>
      t.slot 12 = ⟨0x00400088, 0x2100⟩ && (t.endpoint 3).starved && t.pool.freeMap = 0xF7F00000) = true := by decide

/-- VQ1, VQ2: enqueue adds the length, dequeue subtracts it. -/
theorem test_receive_queue :
    Next (exec (.rxqEnqueue 3 7) (((withMap State.reset 0).setEndpoint 3
        { State.reset.endpoint 3 with rxq := [5], rxBytes := 10 }).setPkt 7 ⟨64, 0, 7⟩)) (fun t =>
      (t.endpoint 3).rxq = [5, 7] && (t.endpoint 3).rxBytes = 74) = true ∧
    Refuses (exec (.rxqEnqueue 3 7) (State.reset.setPkt 7 ⟨64, 0, 7⟩)) .packetFree = true ∧
    Next (exec (.rxDequeue 3) ((State.reset.setEndpoint 3
        { State.reset.endpoint 3 with rxq := [5, 7], rxBytes := 74 }).setPkt 5 ⟨10, 3, 5⟩)) (fun t =>
      t.env.result = .packet (some 5) && (t.endpoint 3).rxq = [7] && (t.endpoint 3).rxBytes = 64) = true := by decide

/-- VK1: a submit from OddFree writes slot 11 with DATA1. -/
theorem test_tx_submit :
    Next (exec (.txSubmit 2 0) ((withTx holding 2 .oddFree []).setPkt 0 ⟨64, 0, 0⟩)) (fun t =>
      t.slot 11 = ⟨0x004000C8, 0x2000⟩ && (t.endpoint 2).txState = .noneFreeEvenFirst) = true ∧
    Next (exec (.txSubmit 5 0) holding) (fun t => t.slot 11 = ⟨0, 0⟩) = true := by decide

/-- VK3: a completion with a queued packet re-arms the slot that just completed. -/
theorem test_tx_complete :
    Next (exec (.txComplete 2 .even) ((withTx holding 2 .noneFreeEvenFirst [1]).setPkt 1 ⟨10, 0, 1⟩)) (fun t =>
      t.slot 10 = ⟨0x000A0088, 0x2040⟩ && (t.endpoint 2).txState = .noneFreeOddFirst &&
        (t.endpoint 2).txq = []) = true := by decide

/-- VK5: isochronous submits alternate; R220: a buffer of 0 bytes at a packet is the block's too. -/
theorem test_iso_submit :
    Next (exec (.isoSubmit 4 0x8000 48) State.reset) (fun t =>
      t.slot 18 = ⟨0x00300088, 0x8000⟩ && (t.endpoint 4).isoBank = .odd) = true ∧
    Refuses (exec (.isoSubmit 4 0x2000 48) State.reset) .notApplicationBuffer = true ∧
    Refuses (exec (.isoSubmit 4 0x2000 0) State.reset) .notApplicationBuffer = true ∧
    Refuses (exec (.isoSubmit 4 0x4000 1) State.reset) .notApplicationBuffer = true := by decide

/-- VB1, from the state after reset: p7's buffer; VB2. -/
theorem test_table :
    State.reset.bufAddr 7 = 0x21C0 ∧
    Next (exec (.bdtWrite 3 .rx .odd 64 .data1 0x21C0) State.reset) (fun t => t.slot 13 = ⟨0x004000C8, 0x21C0⟩) = true ∧
    Next (exec (.bdtReadc 3 .rx .odd) (State.reset.setSlot 13 ⟨0x00050044, 0x2080⟩)) (fun t =>
      t.env.result = .completion 5 0x2080) = true ∧
    Refuses (exec (.bdtReadc 3 .rx .odd) (State.reset.setSlot 13 ⟨0x004000C8, 0x2080⟩)) .slotOwned = true := by decide

/-- Caller errors of a slot's write: R119 (h), R83, R70 (a receive buffer in the store); the bound is that of the buffer
at `addr`, so 65 bytes in the application's memory are none. -/
theorem test_table_refusals :
    Refuses (exec (.bdtWrite 3 .rx .odd 65 .data1 0x2000) State.reset) .countAboveCapacity = true ∧
    Next (exec (.bdtWrite 3 .rx .odd 65 .data1 0x8000) State.reset) (fun t => t.slot 13 = ⟨0x004100C8, 0x8000⟩) = true ∧
    Refuses (exec (.descArmed 13 65 ⟨.data1, 0b0010⟩) (State.reset.setSlot 13 ⟨0, 0x2040⟩)) .countAboveCapacity = true ∧
    Refuses (exec (.bdtWrite 2 .tx .odd 65 .data1 0x2000) State.reset) .pastBuffer = true ∧
    Refuses (exec (.bdtWrite 3 .rx .odd 18 .data1 0x4000) State.reset) .storeReadOnly = true ∧
    Next (exec (.bdtWrite 2 .tx .odd 18 .data1 0x4000) State.reset) (fun t => t.slot 11 = ⟨0x001200C8, 0x4000⟩) = true :=
  by decide

/-- R143: a completed word is one link completion, with its status byte, flag and bank flip; a word that none leaves
changes nothing. -/
theorem test_completed_word :
    Next (exec (.descCompleted 18 2 .data0 0x9) ((State.reset.setEndptReg 4 0x15).setSlot 18 ⟨0x00020088, 0x8000⟩))
      (fun t => t.slot 18 = ⟨0x00020024, 0x8000⟩ && t.regs.statFifo = [0x48] && t.istatReg = 0x08 &&
        t.bankOf 4 .tx = .odd && t.env.out = [.sent 4 .data0 [0, 0]]) = true ∧
    Next (exec (.descCompleted 18 2 .data1 0x9) ((State.reset.setEndptReg 4 0x15).setSlot 18 ⟨0x00020088, 0x8000⟩))
      (fun t => t.slot 18 = ⟨0x00020088, 0x8000⟩ && t.regs.statFifo = []) = true := by decide

/-- The receiving endpoint 3, its ODD slot armed and next (VB3). -/
def receiving : State :=
  withBank ((State.reset.setEndptReg 3 0x19).setSlot 13 ⟨0x004000C8, 0x2080⟩) 3 .rx .odd

/-- VB3: OUT accepted; VB4: the wrong toggle is no step. -/
theorem test_link_out :
    Next (exec (.linkOut 3 .data1 [0x41, 0x42, 0x43, 0x44, 0x45]) receiving) (fun t =>
      (t.slot 13).desc = 0x00050044 && t.regs.statFifo = [0x34] && t.istatReg = 0x08 && t.bankOf 3 .rx = .even &&
        memRead t.mem 0x2080 6 = [0x41, 0x42, 0x43, 0x44, 0x45, 0]) = true ∧
    Next (exec (.linkOut 3 .data0 [0x41]) receiving) (fun t => t.regs.statFifo = [] && t.mem = []) = true := by decide

/-- VB8: SETUP into a slot armed DATA1. -/
theorem test_link_setup :
    Next (exec (.linkSetup [0x00, 0x05, 0x05, 0, 0, 0, 0, 0])
        (withBank (s1.setDesc 1 0x004000C8) 0 .rx .odd)) (fun t =>
      (t.slot 1).desc = 0x00080074 && t.regs.statFifo = [0x04] && t.regs.suspended && t.bankOf 0 .rx = .even) = true := by
  decide

/-- VB7: only the other bank is armed; VB12: a stalled endpoint answers STALL. -/
theorem test_link_in :
    Next (exec (.linkIn 2) ((State.reset.setEndptReg 2 0x15).setSlot 11 ⟨0x004000C8, 0x2000⟩)) (fun t =>
      t.regs.statFifo = [] && t.env.out = []) = true ∧
    Next (exec (.linkIn 2) ((State.reset.setEndptReg 2 0x15).setSlot 10 ⟨0x000200C8, 0x2000⟩)) (fun t =>
      t.regs.statFifo = [0x28] && t.env.out = [.sent 2 .data1 [0, 0]] && (t.slot 10).desc = 0x00020064) = true ∧
    Next (exec (.linkIn 0) (State.reset.setEndptReg 0 0x0F)) (fun t => t.istatReg = 0x80) = true := by decide

/-- VB15: an error latched, flagged where enabled. -/
theorem test_link_error :
    Next (exec (.linkError 0x10) s1) (fun t => t.regs.errStat = 0x10 && t.istatReg = 0x02) = true ∧
    Next (exec (.linkError 0x10) State.reset) (fun t => t.regs.errStat = 0x10 && t.istatReg = 0) = true := by decide

/-- VC11: a reply of exactly one packet is followed by an empty one. -/
theorem test_ep0_send :
    Next (exec (.ep0Send 0x5000 200) { s1 with ep0 := { s1.ep0 with
        setup := decodeSetup [0x80, 0x06, 0x00, 0x02, 0x00, 0x00, 0x40, 0x00], txToggle := .data1 } }) (fun t =>
      t.slot 2 = ⟨0x004000C8, 0x5000⟩ && t.slot 3 = ⟨0x00000088, 0x5040⟩ && t.ep0.txPtr = none) = true := by decide

/-- R83: `reply_buf` has 8 bytes. -/
theorem test_ep0_transmit :
    Next (exec (.ep0Transmit 0x3080 8) (s1.setOpen true)) (fun t => t.slot 2 = ⟨0x00080088, 0x3080⟩) = true ∧
    Refuses (exec (.ep0Transmit 0x3080 9) (s1.setOpen true)) .pastBuffer = true := by decide

/-- GET_DESCRIPTOR(device) is being answered from 0x4000. -/
def replying : State :=
  (withSetup s1 [0x80, 0x06, 0x00, 0x01, 0x00, 0x00, 0x12, 0x00]).ep0Send 0x4000 18

/-- 20 R86: the descriptor is not to be written while its reply is in flight; 70 R386 (f): nor a submitted
isochronous buffer until it is sent; 44 R269: `reply_buf` while a transfer is open. -/
theorem test_stores_in_flight :
    Refuses (appStep (.store 0x4005 [1]) replying) .bufferInFlight = true ∧
    Next (appStep (.store 0x4005 [1]) s1) (fun t => t.byte 0x4005 = 1) = true ∧
    Refuses (appStep (.store 0x3082 [1]) s1) .notApplicationBuffer = true ∧
    Next (appStep (.store 0x3082 [1]) (s1.setOpen true)) (fun t => t.byte 0x3082 = 1) = true ∧
    Refuses (appStep (.store 0x8001 [1]) (s1.submitIso 4 0x8000 2)) .bufferInFlight = true ∧
    Next (appStep (.store 0x8002 [1]) (s1.submitIso 4 0x8000 2)) (fun t => t.byte 0x8002 = 1) = true := by decide

/-- 60 R346: software's descriptor word waits while the handler runs, the link's does not. -/
theorem test_descriptor_word_waits :
    Next (step ((inHandler State.reset).setTrace [.descWord 13 0x004000C8])) (fun t =>
      t.env.trace = [.descWord 13 0x004000C8] && t.slot 13 = ⟨0, 0⟩ && !t.ctx.inIsr) = true ∧
    Next (step ((inHandler State.reset).setTrace [.descWord 13 0x00400044])) (fun t =>
      t.env.trace = [] && t.ctx.inIsr) = true := by decide

/-- VC8: Stall0 after a SETUP with no matching descriptor. -/
theorem test_setup_stalls :
    Next (exec (.tokSetup 0) (s1.store 0x3000 [0x80, 0x06, 0x00, 0x03, 0x09, 0x04, 0xFF, 0x00])) (fun t =>
      t.endptReg 0 = 0x0F && (t.slot 2).desc = 0 && (t.slot 0).desc = 0x004000C8 && t.ep0.phase = .idle) = true := by
  decide

/-- VC2: the halt bit, the last index, and the index above `E_CMP`. -/
theorem test_get_status_endpoint :
    Next (exec .reqGetStatusEp (withSetup (s1.setEndptReg 3 0x1B) [0x82, 0, 0, 0, 0x03, 0, 0x02, 0])) (fun t =>
      memRead t.mem 0x3080 2 = [0x01, 0x00] && (t.slot 2).addr = 0x3080) = true ∧
    Next (exec .reqGetStatusEp (withSetup s1 [0x82, 0, 0, 0, 0x05, 0, 0x02, 0])) (fun t =>
      t.endptReg 0 = 0x0F) = true := by decide

/-- VC3, VC4: the halt bit cleared and set. -/
theorem test_features :
    Next (exec .reqClearFeatureEp (withSetup (s1.setEndptReg 3 0x1B) [0x02, 0x01, 0, 0, 0x83, 0, 0, 0])) (fun t =>
      t.endptReg 3 = 0x19) = true ∧
    Next (exec .reqSetFeatureEp (withSetup s1 [0x02, 0x03, 0, 0, 0x00, 0, 0, 0])) (fun t =>
      t.endptReg 0 = 0x0F && (t.slot 2).addr = 0x3080) = true := by decide

/-- VC5: the address is latched, then applied by the IN completion. -/
theorem test_set_address :
    Next (exec .reqSetAddress (withSetup s1 [0x00, 0x05, 0x34, 0x12, 0, 0, 0, 0])) (fun t =>
      t.ep0.addrLatch = 0x34 && t.ep0.addrPending && t.regs.addr = 0 &&
        Next (exec (.ep0In 2) t) (fun u => u.regs.addr = 0x34 && !u.ep0.addrPending)) = true := by decide

/-- VC17: SET_CONFIGURATION with no packet free leaves endpoint 3 starved. -/
theorem test_set_configuration :
    Next (exec .reqSetConfiguration (withSetup (withMap s1 0) [0x00, 0x09, 0x01, 0, 0, 0, 0, 0])) (fun t =>
      (t.slot 12).desc = 0 && (t.slot 13).desc = 0 && (t.endpoint 3).starved && t.ep0.configuration = 1 &&
        t.endptReg 3 = 0x19) = true := by decide

/-- VD4, VD5: a zero-length receive re-arms; another is queued and replaced. -/
theorem test_rxdone :
    Next (exec (.route 0x34) (State.reset.setSlot 13 ⟨0x00000044, 0x2040⟩)) (fun t =>
      t.slot 13 = ⟨0x004000C8, 0x2040⟩ && (t.endpoint 3).rxq = []) = true ∧
    Next (exec (.route 0x34) (withMap (State.reset.setSlot 13 ⟨0x00050044, 0x2080⟩) 0x0FF00000)) (fun t =>
      (t.pkt 2).len = 5 && (t.endpoint 3).rxq = [2] && (t.endpoint 3).rxBytes = 5 &&
        t.slot 13 = ⟨0x004000C8, 0x2100⟩ && t.pool.freeMap = 0x07F00000) = true := by decide

/-- VD8: the countdown reaches 0 once. -/
theorem test_countdown :
    Next (exec .irqSof (configured ({ State.reset with ctx := { State.reset.ctx with rebootTimer := 1 } }) 1)) (fun t =>
      t.ctx.rebootTimer = 0 && t.env.out = [.rebootTrigger]) = true ∧
    Next (exec .irqSof (configured State.reset 1)) (fun t => t.ctx.rebootTimer = 0 && t.env.out = []) = true := by decide

/-- VD9, VD10, VD11: error, sleep, an ignored status byte. -/
theorem test_handlers :
    Next (exec .irqError { withIstat s1 0x02 with regs := { (withIstat s1 0x02).regs with errStat := 0x10 } })
      (fun t => t.ctx.errSnapshot = 0x10 && t.regs.errStat = 0 && t.istatReg = 0) = true ∧
    Next (exec .irqSleep (withIstat s1 0x10)) (fun t => t.istatReg = 0) = true ∧
    Next (exec .irqTokdne (withFifo s1 [0x70])) (fun t => t.regs.statFifo = [] && t.istatReg = 0) = true := by decide

/-- VD12: an unhandled flag starts no run. -/
theorem test_unhandled_flag :
    Next (exec .irqEntry (withIstat s1 0x20)) (fun t => t.istatReg = 0x20 && !t.ctx.inIsr) = true := by decide

/-! ## Witnesses: concrete states and operands that meet the hypotheses of the obligations, each clause -/

/-- Some next state. -/
def Runs (o : Out) : Prop := ∃ t, o = .next t

/-- R119 (g), U11: a code of no table is dropped and the machine goes on, the handler running or not. -/
theorem test_rejected_line :
    step ((inHandler s1).setTrace [.line [0x7F], .line [0x83]]) =
      .next ((inHandler s1).setTrace [.line [0x83]]) := rfl

theorem test_witness_StepRunsDecodedLine :
    (decodeLine State.reset.cfg [0x40] = .ok .csEnter ∧ agentOf [0x40] = .fg ∧ State.reset.ctx.inIsr = false) ∧
    (decodeLine s1.cfg [0x83] = .ok .linkSof ∧ agentOf [0x83] ≠ .fg ∧ (inHandler s1).ctx.inIsr = true) ∧
    (agentOf [0x40] = .fg ∧ (inHandler State.reset).ctx.inIsr = true) ∧
    (State.reset.setTrace [.line [0x7F]]).env.trace = [.line [0x7F]] ∧
    decodeLine Config.default [0x7F] = .error (.unknownCode 0x7F) := by decide

/-- A software word outside and inside the handler, a link word inside it; an application's write; no item. -/
theorem test_witness_StepRunsDescriptorWord :
    ((State.reset.setTrace [.descWord 13 0x004000C8]).env.trace = [.descWord 13 0x004000C8] ∧
      classifyDesc 0x004000C8 ≠ .completed ∧ classifyDesc 0 ≠ .completed ∧ State.reset.ctx.inIsr = false) ∧
    (classifyDesc 0x00400044 = .completed ∧ (inHandler State.reset).ctx.inIsr = true) ∧
    (State.reset.setTrace [.app (.store 0x8000 [1])]).env.trace = [.app (.store 0x8000 [1])] ∧
    State.reset.env.trace = [] := by decide

/-- Every condition at the top of a pass, and what each later point of a pass still tests. -/
theorem test_witness_IsrStepHandlesFirstCondition :
    (s1.ctx.isrPoint = .top ∧ decodeIst (withIstat s1 0x05).istatReg = some .irqSof ∧
      decodeIst (withFifo (withIstat s1 0x81) [0x28]).istatReg = some .irqTokdne ∧
      decodeIst (withIstat s1 0x81).istatReg = some .irqReset ∧
      decodeIst (withIstat s1 0x82).istatReg = some .irqStall ∧
      decodeIst (withIstat s1 0x12).istatReg = some .irqError ∧
      decodeIst (withIstat s1 0x10).istatReg = some .irqSleep ∧
      decodeIst (withIstat s1 0x20).istatReg = some .istResume ∧
      decodeIst (withIstat s1 0x40).istatReg = some .istAttach ∧ decodeIst s1.istatReg = none) ∧
    ((s1.isrAt .afterSof 0x8F).ctx.isrPoint = .afterSof ∧ (s1.isrAt .afterSof 0x8F).ctx.isrStatus = 0x8F ∧
      decodeIst (0x8F &&& 0xFB) = some .irqTokdne ∧ decodeIst (0x97 &&& 0xFB) = some .irqReset ∧
      decodeIst (0x96 &&& 0xFB) = some .irqStall ∧ decodeIst (0x16 &&& 0xFB) = some .irqError ∧
      decodeIst (0x14 &&& 0xFB) = some .irqSleep ∧ decodeIst (0x24 &&& 0xFB) = some .istResume ∧
      decodeIst (0x44 &&& 0xFB) = some .istAttach ∧ decodeIst (0x04 &&& 0xFB) = none) ∧
    ((s1.isrAt .afterStall 0x92).ctx.isrPoint = .afterStall ∧ (s1.isrAt .afterStall 0x92).ctx.isrStatus = 0x92 ∧
      decodeIst (0x92 &&& 0x12) = some .irqError ∧ decodeIst (0x90 &&& 0x12) = some .irqSleep ∧
      decodeIst (0x81 &&& 0x12) = none) ∧
    ((s1.isrAt .afterError 0x12).ctx.isrPoint = .afterError ∧ (s1.isrAt .afterError 0x12).ctx.isrStatus = 0x12 ∧
      decodeIst (0x12 &&& 0x10) = some .irqSleep ∧ decodeIst (0x62 &&& 0x10) = none) := by decide

/-- 45 R300: after stall, error and sleep of the same pass are still tested, on the value read at its top; a bus reset
raised meanwhile is not. -/
theorem test_rest_of_pass :
    Next ((withIstat (inHandler s1) 0x03).isrAt .afterStall 0x82).isrStep (fun t =>
      t.ctx.isrPoint = .afterError && t.istatReg = 0x01 && t.ctx.inIsr) = true ∧
    Next ((withIstat (inHandler s1) 0x01).isrAt .afterError 0x82).isrStep (fun t =>
      t.istatReg = 0x01 && !t.ctx.inIsr) = true := by decide

theorem test_witness_RoutingRunsDecodedInstruction : (withFifo s1 [0x28, 0x34]).regs.statFifo = 0x28 :: [0x34] := rfl

/-- SET_ADDRESS is served; a request nobody recognises is stalled; an index that passes `E_CMP` = 15 and exceeds `N_EP`
faults; a hook's long reply is refused. -/
theorem test_witness_DispatchRunsDecodedRequest :
    ((∃ t, (withSetup s1 [0x00, 0x05, 0x05, 0, 0, 0, 0, 0]).runRequest = .served t) ∧
      decodeReq Config.default 0x0500 = .reqSetAddress) ∧
    ((∃ t, (withSetup s1 [0x21, 0x0A, 0, 0, 0, 0, 0, 0]).runRequest = .stalled t) ∧
      decodeReq Config.default 0x0A21 = .reqOther 0x0A 0x21) ∧
    Faults (exec .reqGetStatusEp (withSetup (withCfg { Config.default with eCmp := 15 })
      [0x82, 0, 0, 0, 5, 0, 2, 0])) .endpointIndexOutOfRange = true ∧
    Refuses (exec (.reqOther 0x21 0xA1) { withCfg { Config.default with numClassHooks := 1 } with
      env := { State.reset.env with classAnswers := [⟨[], .reply [0, 0, 0, 0, 0, 0, 0, 0, 0], none⟩] } }) .replyTooLong =
        true :=
  ⟨⟨⟨_, rfl⟩, by decide⟩, ⟨⟨_, rfl⟩, by decide⟩, by decide, by decide⟩

/-- R243: Idle after Stall0, else by `wLength`. -/
theorem test_dispatch_phase :
    Next (exec .reqDispatch (withSetup s1 [0x21, 0x0A, 0, 0, 0, 0, 8, 0])) (fun t => t.ep0.phase = .idle) = true ∧
    Next (exec .reqDispatch (withSetup s1 [0x00, 0x05, 0x05, 0, 0, 0, 0, 0])) (fun t =>
      t.ep0.phase = .statusStage) = true ∧
    Next (exec .reqDispatch (withSetup s1 [0x80, 0, 0, 0, 0, 0, 2, 0])) (fun t => t.ep0.phase = .dataStage) = true := by
  decide

theorem test_witness_TraceDecodesEncoding :
    (WellFormed Config.default (.bdtWrite 255 .tx .odd 1023 .data1 0xFFFFFFFF) = true ∧
      (encode (.bdtWrite 255 .tx .odd 1023 .data1 0xFFFFFFFF)).1 = .cmd8) ∧
    WellFormed segregated (.allocSeg 255) = true ∧ (encode (.linkOut 3 .data1 [])).1 = .link8 ∧
    ∀ data : List Byte, data.length = 1023 → WellFormed Config.default (.linkOut 3 .data1 data) = true :=
  ⟨by decide, by decide, rfl, fun data h => by simp [WellFormed, h]⟩

theorem test_witness_TraceLineIsEncoding :
    decodeLine segregated [0x10, 0xFF] = .ok (.allocSeg 255) ∧
    decodeLine Config.default [0x81, 0x03, 0x01, 0x01, 0x00, 0x41] = .ok (.linkOut 3 .data1 [0x41]) := by decide

theorem test_witness_WordDecodesEncoding :
    (WellFormed Config.default (.reqOther 0x06 0x82) = true ∧ (encode (.reqOther 0x06 0x82)).1 = .req16) ∧
    (WellFormed Config.default .irqStall = true ∧ (encode .irqStall).1 = .istat8) ∧
    (WellFormed Config.default (.tokOther 3 0xF) = true ∧ (encode (.tokOther 3 0xF)).1 = .tok4) ∧
    (WellFormed Config.default (.routeTxdone 0x4C) = true ∧ (encode (.routeTxdone 0x4C)).1 = .stat8) ∧
    WellFormed Config.default (.descCompleted 19 0 .data0 0x1) = true ∧
    (encode (.descCompleted 19 0 .data0 0x1)).1 = .desc32 := by decide

/-- The start of every invariant's step: the state after a bus reset, a start of frame pending. -/
theorem test_witness_StepKeeps :
    (s1.memCanonical ∧ s1.descForms ∧ s1.ruleForms ∧ s1.txQueuesOk ∧ s1.statQueueOk ∧ s1.reservedOk ∧ s1.timerOk) ∧
    (s1.setTrace [.line [0x83]]).plainItem ∧ Runs (step (s1.setTrace [.line [0x83]])) := by
  have rule : s1.ruleForms := fun k => by
    unfold IsRuleWord
    by_cases h1 : k = 0
    · exact .inr (.inl ⟨64, .data0, by subst h1; decide⟩)
    · by_cases h2 : k = 1
      · exact .inr (.inl ⟨64, .data0, by subst h2; decide⟩)
      · exact .inl (by revert k; decide)
  refine ⟨⟨show memWf s1.mem = true by decide, fun k => ?_, rule, fun e => .inl ?_, ⟨by decide, ?_⟩, ⟨?_, by decide⟩,
    show (0 : Nat) ≤ _ from Nat.zero_le _⟩, fun k w rest h => ?_, _, rfl⟩
  · rcases rule k with h | ⟨n, t, h⟩ | h
    · exact .inl h
    · exact .inr (.inl ⟨n, t, 0b0010, h⟩)
    · exact .inr (.inr h)
  · revert e; decide
  · have h : s1.regs.statFifo = [] := by decide
    simp [h]
  · decide
  · simp [State.setTrace] at h

theorem test_witness_LinkTouchesNothingElse :
    (encode (.linkOut 3 .data1 [0x41])).1 = .link8 ∧ Runs (exec (.linkOut 3 .data1 [0x41]) receiving) ∧
    exec .linkSof s1 = .next (s1.raiseIstat 0x04) ∧ InStore receiving 0x4011 ∧
    configured receiving 1 = { receiving with ep0 := (configured receiving 1).ep0 } :=
  ⟨rfl, ⟨_, rfl⟩, rfl, ⟨(0x4000, 18), by decide, by decide⟩, rfl⟩

theorem test_witness_BusInitResult :
    State.reset.ctx.irqMask = false ∧ State.reset.ctx.inIsr = false ∧
    State.reset.cfg.bdtBase.toNat % State.reset.cfg.bdtAlign = 0 := by decide

theorem test_witness_BusInitFreesEveryPacket :
    (State.reset.cfg.wf = true ∧ Runs (exec .busInit State.reset) ∧ 11 < State.reset.cfg.numBuffers) ∧
    (withCfg segregated).cfg.wf = true ∧ Runs (exec .busInit (withCfg segregated)) :=
  ⟨⟨by decide, ⟨_, rfl⟩, by decide⟩, by decide, ⟨_, rfl⟩⟩

theorem test_witness_SectionAndTimer :
    State.reset.ctx.irqMask = false ∧ (State.reset.setIrqMask true).ctx.irqMask = true ∧
    (255#32).toNat ≤ State.reset.cfg.timerMax ∧ State.reset.cfg.timerMax < (256#32).toNat := by decide

theorem test_witness_AllocTakesLowestFree :
    (11 < State.reset.cfg.numBuffers ∧ (withMap State.reset 0x00100000).pool.freeMap.getMsbD 11 = true ∧
      ∀ m, m < 11 → (withMap State.reset 0x00100000).pool.freeMap.getMsbD m = false) ∧
    ∀ m, m < State.reset.cfg.numBuffers → (withMap State.reset 0).pool.freeMap.getMsbD m = false := by decide

theorem test_witness_AllocSegPopsFreeList :
    (1 ≤ (4#8).toNat ∧ (4#8).toNat ≤ (withCfg segregated).cfg.nEp.toNat ∧
      (withCfg segregated).pool.freeList.get ((4#8).setWidth 4) = [9, 10, 11]) ∧
    (0#8).toNat < 1 ∧ State.reset.cfg.nEp.toNat < (5#8).toNat ∧ State.reset.pool.freeList.get ((4#8).setWidth 4) = [] := by
  decide

theorem test_witness_PoolReturnFrees :
    ((11#16).toNat < (withMap State.reset 0xFFE00000).cfg.numBuffers ∧
      (withMap State.reset 0xFFE00000).pktFree (11#16).toNat = false ∧
      (withMap State.reset 0xFFE00000).cfg.allocStrategy = .sharedBitmap) ∧
    ((11#16).toNat < ((withCfg segregated).setFreeList 4 [9, 10]).cfg.numBuffers ∧
      ((withCfg segregated).setFreeList 4 [9, 10]).pktFree (11#16).toNat = false ∧
      ((withCfg segregated).setFreeList 4 [9, 10]).cfg.allocStrategy = .segregated) ∧
    (11#16).toNat < State.reset.cfg.numBuffers ∧ State.reset.pktFree (11#16).toNat = true := by decide

/-- Endpoint 4 starved. -/
def starving : State := holding.setStarved 4 true

theorem test_witness_StarvedTargetChoice :
    (starving.cfg.allocStrategy = .sharedBitmap ∧ 1 ≤ (4#4).toNat ∧ (4#4).toNat ≤ starving.cfg.nEp.toNat ∧
      (starving.endpoint 4).starved = true ∧
      ∀ f : Ep, 1 ≤ f.toNat → f.toNat < (4#4).toNat → (starving.endpoint f).starved = false) ∧
    (holding.cfg.allocStrategy = .sharedBitmap ∧
      ∀ f : Ep, 1 ≤ f.toNat → f.toNat ≤ holding.cfg.nEp.toNat → (holding.endpoint f).starved = false) ∧
    (withCfg segregated).cfg.allocStrategy = .segregated ∧
    ((withCfg segregated).pkt (11#16).toNat).owner = (4#4).toNat ∧ 1 ≤ (4#4).toNat ∧
    (4#4).toNat ≤ (withCfg segregated).cfg.nEp.toNat := by decide

/-- Both receive slots of endpoint 3 Armed. -/
def bothArmed : State :=
  (holding.setSlot 12 ⟨0x00400088, 0x2080⟩).setSlot 13 ⟨0x004000C8, 0x20C0⟩

/-- The EVEN receive slot of endpoint 3 Armed. -/
def evenArmed : State := holding.setSlot 12 ⟨0x00400088, 0x2080⟩

theorem test_witness_RedirectArmsStarvedSlot :
    (1 ≤ (3#4).toNat ∧ (3#4).toNat ≤ holding.cfg.nEp.toNat ∧ holding.pktLoose (1#16).toNat = true ∧
      (holding.slot (slotOf 3 .rx .even)).desc = 0) ∧
    (1 ≤ (3#4).toNat ∧ (3#4).toNat ≤ evenArmed.cfg.nEp.toNat ∧ evenArmed.pktLoose (1#16).toNat = true ∧
      (evenArmed.slot (slotOf 3 .rx .odd)).desc = 0 ∧ (evenArmed.slot (slotOf 3 .rx .even)).desc ≠ 0) ∧
    1 ≤ (3#4).toNat ∧ (3#4).toNat ≤ bothArmed.cfg.nEp.toNat ∧ bothArmed.pktLoose (1#16).toNat = true ∧
    (bothArmed.slot (slotOf 3 .rx .even)).desc ≠ 0 ∧ (bothArmed.slot (slotOf 3 .rx .odd)).desc ≠ 0 := by decide

theorem test_witness_ReleaseReturnsOrRedirects :
    (holding.pktHeld (1#16).toNat = true ∧ holding.starvedTarget (1#16).toNat = none) ∧
    ((configured (holding.setStarved 3 true) 1).pktHeld (1#16).toNat = true ∧
      (configured (holding.setStarved 3 true) 1).starvedTarget (1#16).toNat = some 3 ∧
      (configured (holding.setStarved 3 true) 1).ep0.configuration ≠ 0) ∧
    holding.cfg.numBuffers ≤ (12#16).toNat ∧ (11#16).toNat < holding.cfg.numBuffers ∧ holding.pktHeld (11#16).toNat = false := by
  decide

/-- Packet 1 holds one byte; endpoint 4 has it queued. -/
def filled : State := holding.setPkt 1 ⟨1, 0, 1⟩
def received : State := filled.setEndpoint 4 { filled.endpoint 4 with rxq := [1], rxBytes := 1 }

theorem test_witness_ReceiveQueue :
    (1 ≤ (4#4).toNat ∧ (4#4).toNat ≤ filled.cfg.nEp.toNat ∧ filled.pktQueued (1#16).toNat = false ∧
      filled.pktFree (1#16).toNat = false ∧ 0 < (filled.pkt (1#16).toNat).len) ∧
    received.pktQueued (1#16).toNat = true ∧
    (filled.pktQueued (2#16).toNat = false ∧ filled.pktFree (2#16).toNat = true) ∧
    (filled.pktQueued (0#16).toNat = false ∧ filled.pktFree (0#16).toNat = false ∧
      (filled.pkt (0#16).toNat).len = 0) ∧
    (1 ≤ (4#8).toNat ∧ (4#8).toNat ≤ received.cfg.nEp.toNat ∧ (received.endpoint ((4#8).setWidth 4)).rxq = 1 :: []) ∧
    (0#8).toNat < 1 ∧ received.cfg.nEp.toNat < (5#8).toNat ∧ (received.endpoint ((1#8).setWidth 4)).rxq = [] := by decide

theorem test_witness_QueueCounts :
    (1 ≤ (1#8).toNat ∧ (4#8).toNat ≤ State.reset.cfg.nEp.toNat) ∧ (0#8).toNat < 1 ∧
    State.reset.cfg.nEp.toNat < (5#8).toNat := by decide

/-- Endpoint 4, both banks the link's, with two packets queued. -/
def waiting : State := withTx holding 4 .noneFreeEvenFirst [1, 0]

theorem test_witness_TransmitQueue :
    (1 ≤ (4#4).toNat ∧ (4#4).toNat ≤ holding.cfg.nEp.toNat ∧ holding.pktQueued (1#16).toNat = false) ∧
    (1 ≤ (4#4).toNat ∧ (4#4).toNat ≤ waiting.cfg.nEp.toNat ∧ (waiting.endpoint 4).txq = 1 :: [0]) ∧
    1 ≤ (1#4).toNat ∧ (1#4).toNat ≤ waiting.cfg.nEp.toNat ∧ (waiting.endpoint 1).txq = [] := by decide

/-- Endpoint 4 in a transmit state, packet 1 of `n` bytes held. -/
def submitting (st : TxState) (n : Nat) : State := (withTx holding 4 st []).setPkt 1 ⟨n, 0, 1⟩

theorem test_witness_TxSubmitBindsFreeBank :
    ∀ st ∈ [TxState.bothFreeEvenFirst, .bothFreeOddFirst, .evenFree, .oddFree],
      1 ≤ (4#8).toNat ∧ (4#8).toNat ≤ (submitting st 64).cfg.nEp.toNat ∧
      ((submitting st 64).endpoint ((4#8).setWidth 4)).discipline ≠ .iso ∧
      (submitting st 64).pktHeld (1#16).toNat = true ∧
      ((submitting st 64).pkt (1#16).toNat).len ≤ (submitting st 64).cfg.pktCap ∧
      ((submitting st 64).endpoint ((4#8).setWidth 4)).txState = st := by decide

/-- Endpoint 4 used isochronously. -/
def isoUsed : State := holding.setDiscipline 4 .iso

theorem test_witness_TxSubmitQueuesOrStops :
    (∀ st ∈ [TxState.noneFreeEvenFirst, .noneFreeOddFirst],
      1 ≤ (4#8).toNat ∧ (4#8).toNat ≤ (submitting st 64).cfg.nEp.toNat ∧
      ((submitting st 64).endpoint ((4#8).setWidth 4)).discipline ≠ .iso ∧
      (submitting st 64).pktHeld (1#16).toNat = true ∧
      ((submitting st 64).pkt (1#16).toNat).len ≤ (submitting st 64).cfg.pktCap ∧
      ((submitting st 64).endpoint ((4#8).setWidth 4)).txState = st) ∧
    ((0#8).toNat < 1 ∧ holding.cfg.nEp.toNat < (5#8).toNat) ∧
    ((4#8).toNat ≤ isoUsed.cfg.nEp.toNat ∧ (isoUsed.endpoint ((4#8).setWidth 4)).discipline = .iso) ∧
    ((4#8).toNat ≤ holding.cfg.nEp.toNat ∧ (holding.endpoint ((4#8).setWidth 4)).discipline ≠ .iso ∧
      holding.pktHeld (2#16).toNat = false) ∧
    (4#8).toNat ≤ (submitting .oddFree 65).cfg.nEp.toNat ∧
    ((submitting .oddFree 65).endpoint ((4#8).setWidth 4)).discipline ≠ .iso ∧
    (submitting .oddFree 65).pktHeld (1#16).toNat = true ∧
    (submitting .oddFree 65).cfg.pktCap < ((submitting .oddFree 65).pkt (1#16).toNat).len := by decide

theorem test_witness_TxCompleteBindsOrFrees :
    (1 ≤ (4#4).toNat ∧ (4#4).toNat ≤ waiting.cfg.nEp.toNat ∧ (waiting.endpoint 4).txq = 1 :: [0]) ∧
    1 ≤ (1#4).toNat ∧ (1#4).toNat ≤ waiting.cfg.nEp.toNat ∧ (waiting.endpoint 1).txq = [] := by decide

/-- An application buffer that ends where the address space does; an endpoint driven with TX.SUBMIT; a buffer past the
space; 0 bytes at packet 0. -/
theorem test_witness_IsoSubmitArmsFlaggedBank :
    (1 ≤ (4#8).toNat ∧ (4#8).toNat ≤ State.reset.cfg.nEp.toNat ∧
      (State.reset.endpoint ((4#8).setWidth 4)).discipline ≠ .packet ∧
      (0xFFFFFC01#32).toNat + (1023#10).toNat ≤ 2 ^ 32 ∧
      ∀ r ∈ State.reset.cfg.blockRegions ++ State.reset.storeSpans,
        spansApart ((0xFFFFFC01#32).toNat, max (1023#10).toNat 1) r = true) ∧
    ((State.reset.setDiscipline 4 .packet).endpoint ((4#8).setWidth 4)).discipline = .packet ∧
    2 ^ 32 < (0xFFFFFC02#32).toNat + (1023#10).toNat ∧
    ((0x2000, 64) ∈ State.reset.cfg.blockRegions ++ State.reset.storeSpans ∧
      spansApart ((0x2000#32).toNat, max (0#10).toNat 1) (0x2000, 64) = false) ∧
    (0#8).toNat < 1 ∧ State.reset.cfg.nEp.toNat < (5#8).toNat := by decide

theorem test_witness_SubmitsAndCompletionsConverge :
    (holding.endpoint 2).txq = [] ∧ (holding.endpoint 2).txState = .bothFreeEvenFirst ∧
    ((withTx holding 2 .bothFreeOddFirst []).endpoint 2).txq = [] ∧
    ((withTx holding 2 .bothFreeOddFirst []).endpoint 2).txState = .bothFreeOddFirst := by decide

/-- Slot 17 of a free endpoint at packet 1: beyond the table, owned, waiting; a count at and above the capacity; a
transmit count past packet 1; a receive buffer in the store. -/
theorem test_witness_BdtWriteArmsSlot :
    holding.cfg.nEp.toNat < (5#8).toNat ∧
    ((3#8).toNat ≤ receiving.cfg.nEp.toNat ∧
      descOwn (receiving.slot (slotOf ((3#8).setWidth 4) .rx .odd)).desc = true) ∧
    ((∃ st ∈ (withFifo holding [0x44]).regs.statFifo, statSlot st = slotOf ((4#8).setWidth 4) .rx .odd)) ∧
    ((4#8).toNat ≤ holding.cfg.nEp.toNat ∧ descOwn (holding.slot (slotOf ((4#8).setWidth 4) .rx .odd)).desc = false ∧
      ∀ st ∈ holding.regs.statFifo, statSlot st ≠ slotOf ((4#8).setWidth 4) .rx .odd) ∧
    (holding.fitsBuffer 0x2040 (64#10).toNat = true ∧ holding.storeApart 0x2040 (64#10).toNat = true) ∧
    holding.fitsBuffer 0x2040 (65#10).toNat = false ∧
    holding.fitsBuffer 0x4000 (18#10).toNat = true ∧ holding.storeApart 0x4000 (18#10).toNat = false := by decide

theorem test_witness_BdtReadAndClear :
    (4#8).toNat ≤ receiving.cfg.nEp.toNat ∧
    descOwn (receiving.slot (slotOf ((4#8).setWidth 4) .tx .odd)).desc = false ∧
    descOwn (receiving.slot (slotOf ((3#8).setWidth 4) .rx .odd)).desc = true := by decide

/-- The transmitting endpoint 4, its EVEN slot armed with 0 bytes and next. -/
def transmitting : State := (State.reset.setEndptReg 4 0x14).setSlot 18 ⟨0x00000088, 0x2000⟩

/-- Slot 19 Unarmed, its address packet 1's. -/
def emptySlot : State := holding.setSlot 19 ⟨0, 0x2040⟩

/-- Slot 19 Unarmed at packet 1, slot 17 at packet 1, and an owned slot; the words `receiving` and `transmitting` await
from the link; words no transaction leaves: the other bank, another toggle, a slot not armed, other kinds, the wrong
direction, a SETUP beyond endpoint 0, an IN and a SETUP of another count. -/
theorem test_witness_DescriptorWordsByForm :
    ((19#6).toNat < 4 * (emptySlot.cfg.nEp.toNat + 1) ∧ descOwn (emptySlot.slot 19).desc = false ∧
      (∀ st ∈ emptySlot.regs.statFifo, statSlot st ≠ 19) ∧ slotDir 19 = .tx ∧
      emptySlot.fitsBuffer (emptySlot.slot 19).addr (64#10).toNat = true ∧
      emptySlot.fitsBuffer (emptySlot.slot 19).addr (65#10).toNat = false) ∧
    (slotDir 17 = .rx ∧ (emptySlot.setSlot 17 ⟨0, 0x2040⟩).fitsBuffer 0x2040 (64#10).toNat = true ∧
      (emptySlot.setSlot 17 ⟨0, 0x2040⟩).storeApart 0x2040 (64#10).toNat = true ∧
      (emptySlot.setSlot 17 ⟨0, 0x2040⟩).fitsBuffer 0x2040 (65#10).toNat = false ∧
      (emptySlot.setSlot 17 ⟨0, 0x4000⟩).fitsBuffer 0x4000 (18#10).toNat = true ∧
      (emptySlot.setSlot 17 ⟨0, 0x4000⟩).storeApart 0x4000 (18#10).toNat = false) ∧
    4 * (emptySlot.cfg.nEp.toNat + 1) ≤ (20#6).toNat ∧
    ((13#6).toNat < 4 * (receiving.cfg.nEp.toNat + 1) ∧ descOwn (receiving.slot 13).desc = true) ∧
    ((18#6) = linkSlot transmitting 4 .tx ∧ TokenOpen transmitting ((4#4).setWidth 8) ∧
      epcTxen (transmitting.endptReg 4) = true ∧ descOwn (transmitting.slot 18).desc = true ∧
      descStall (transmitting.slot 18).desc = false ∧
      Reachable transmitting.cfg (transmitting.slot 18).addr (descCount (transmitting.slot 18).desc).toNat) ∧
    ((13#6) = linkSlot receiving 3 .rx ∧ (0#6) = linkSlot s1 0 .rx) ∧
    ((12#6) ≠ linkSlot receiving (slotEp 12) (slotDir 12) ∧ Toggle.data0 ≠ descTog (receiving.slot 13).desc ∧
      descOwn (receiving.slot 12).desc = false ∧ epcStall (receiving.endptReg (slotEp 12)) = false ∧
      (0x5#4) ≠ 0xD ∧ (0x5#4) ≠ 0x1 ∧ (0x5#4) ≠ 0x9 ∧ slotDir 12 = .rx ∧ slotDir 18 = .tx ∧ slotEp 13 ≠ 0 ∧
      (1#10) ≠ descCount (transmitting.slot 18).desc ∧ (7#10) ≠ 8) := by
  unfold TokenOpen Reachable; decide

theorem test_witness_LinkOutCompletes :
    receiving.memCanonical ∧ slotOf 3 .rx .odd = linkSlot receiving ((3#8).setWidth 4) .rx ∧ TokenOpen receiving 3 ∧
    epcRxen (receiving.endptReg 3) = true ∧ descOwn (receiving.slot 13).desc = true ∧
    descStall (receiving.slot 13).desc = false ∧ [0x41#8].length ≤ (descCount (receiving.slot 13).desc).toNat ∧
    receiving.cfg.rxToggleCheck = true ∧ epcHshk (receiving.endptReg 3) = true ∧
    Toggle.data1 = descTog (receiving.slot 13).desc ∧ Storable receiving (receiving.slot 13).addr 64 ∧
    (receiving.setSlot 13 ⟨0x001200C8, 0x4000⟩).storeApart 0x4000 18 = false := by
  unfold State.memCanonical TokenOpen Storable Reachable; decide

theorem test_witness_LinkSetupCompletes :
    s1.memCanonical ∧ slotOf 0 .rx .even = linkSlot s1 0 .rx ∧ [0#8, 5, 5, 0, 0, 0, 0, 0].length = 8 ∧ TokenOpen s1 0 ∧
    epcRxen (s1.endptReg 0) = true ∧ epcCtldis (s1.endptReg 0) = false ∧ descOwn (s1.slot 0).desc = true ∧
    descStall (s1.slot 0).desc = false ∧ 8 ≤ (descCount (s1.slot 0).desc).toNat ∧
    Storable s1 (s1.slot 0).addr 8 := by
  unfold State.memCanonical TokenOpen Storable Reachable; decide

theorem test_witness_LinkInSends :
    slotOf 4 .tx .even = linkSlot transmitting ((4#8).setWidth 4) .tx ∧ TokenOpen transmitting 4 ∧
    epcTxen (transmitting.endptReg 4) = true ∧ descOwn (transmitting.slot 18).desc = true ∧
    descStall (transmitting.slot 18).desc = false ∧
    Reachable transmitting.cfg (transmitting.slot 18).addr (descCount (transmitting.slot 18).desc).toNat := by
  unfold TokenOpen Reachable; decide

/-- Every closed gate; an endpoint not stalled, and one stalled but disabled; a stalled endpoint; a disabled one, an
unarmed slot, an OUT too long, a wrong toggle, endpoint 0 without SETUP, and with a slot of 7 bytes. -/
theorem test_witness_TokensThatDoNotComplete :
    (TokenClosed (withFifo receiving [0, 0, 0, 0]) 3 ∧ TokenClosed receiving 5 ∧ TokenClosed (withIstat s1 0x01) 0) ∧
    (epcStall (s1.endptReg ((0#8).setWidth 4)) = false ∧
      epcStall ((s1.setEndptReg 3 0x02).endptReg ((3#8).setWidth 4)) = true ∧
      epcRxen ((s1.setEndptReg 3 0x02).endptReg ((3#8).setWidth 4)) = false ∧
      epcTxen ((s1.setEndptReg 3 0x02).endptReg ((3#8).setWidth 4)) = false) ∧
    (¬ TokenClosed (s1.setEndptReg 0 0x0F) 0 ∧ epcStall ((s1.setEndptReg 0 0x0F).endptReg ((0#8).setWidth 4)) = true ∧
      epcRxen ((s1.setEndptReg 0 0x0F).endptReg ((0#8).setWidth 4)) = true) ∧
    (TokenOpen s1 3 ∧ epcRxen (s1.endptReg ((3#8).setWidth 4)) = false ∧
      descOwn (s1.slot (linkSlot s1 ((3#8).setWidth 4) .rx)).desc = false ∧
      epcTxen (s1.endptReg ((3#8).setWidth 4)) = false) ∧
    (TokenOpen receiving 3 ∧ descStall (receiving.slot (linkSlot receiving ((3#8).setWidth 4) .rx)).desc = false ∧
      receiving.cfg.rxToggleCheck = true ∧ epcHshk (receiving.endptReg ((3#8).setWidth 4)) = true ∧
      descDts (receiving.slot (linkSlot receiving ((3#8).setWidth 4) .rx)).desc = true ∧
      Toggle.data0 ≠ descTog (receiving.slot (linkSlot receiving ((3#8).setWidth 4) .rx)).desc ∧
      (descCount ((receiving.setDesc 13 0x000800C8).slot
        (linkSlot receiving ((3#8).setWidth 4) .rx)).desc).toNat < (List.replicate 9 (0#8)).length) ∧
    (TokenOpen (s1.setEndptReg 0 0x1D) 0 ∧ descStall ((s1.setEndptReg 0 0x1D).slot
      (linkSlot (s1.setEndptReg 0 0x1D) 0 .rx)).desc = false ∧ epcCtldis ((s1.setEndptReg 0 0x1D).endptReg 0) = true) ∧
    TokenOpen (s1.setDesc 0 0x00070088) 0 ∧
    descStall ((s1.setDesc 0 0x00070088).slot (linkSlot (s1.setDesc 0 0x00070088) 0 .rx)).desc = false ∧
    (descCount ((s1.setDesc 0 0x00070088).slot (linkSlot (s1.setDesc 0 0x00070088) 0 .rx)).desc).toNat < 8 := by
  unfold TokenOpen TokenClosed; decide

theorem test_witness_LinkFlagEvents :
    s1.regs.ctlEnable = true ∧ (0x10#8) ≠ 0 ∧ (s1.writeCtl 0x00).regs.ctlEnable = false := by decide

/-- `s1` with a control transfer open. -/
def opened : State := s1.setOpen true

theorem test_witness_Ep0TransmitAndSend :
    ((64#10).toNat ≤ opened.cfg.ep0Size ∧ opened.ep0.transferOpen = true ∧
      opened.fitsBuffer 0x8000 (64#10).toNat = true ∧ opened.fitsBuffer 0x3080 (64#10).toNat = false) ∧
    opened.cfg.ep0Size < (65#10).toNat ∧ ((64#10).toNat ≤ s1.cfg.ep0Size ∧ s1.ep0.transferOpen = false) ∧
    (min (63#32).toNat (withSetup s1 [0x80, 6, 0, 1, 0, 0, 0xFF, 0]).ep0.setup.wLength.toNat = 63 ∧ 63 < s1.cfg.ep0Size) ∧
    (min (127#32).toNat (withSetup s1 [0x80, 6, 0, 1, 0, 0, 0xFF, 0]).ep0.setup.wLength.toNat = 127 ∧
      s1.cfg.ep0Size ≤ 127 ∧ 127 < 2 * s1.cfg.ep0Size) ∧
    min (128#32).toNat (withSetup s1 [0x80, 6, 0, 1, 0, 0, 0xFF, 0]).ep0.setup.wLength.toNat = 128 ∧
    2 * s1.cfg.ep0Size ≤ 128 := by decide

/-- Nothing owed; a reply owes a zero-length packet; another owes 65 bytes. -/
theorem test_witness_Ep0InDrainsAndApplies :
    s1.ep0.txPtr = none ∧
    true = ((withSetup opened [0x80, 6, 0, 1, 0, 0, 0x12, 0]).ep0.transferOpen &&
      (withSetup opened [0x80, 6, 0, 1, 0, 0, 0x12, 0]).ep0.setup.bmRequestType.getLsbD 7 &&
      (withSetup opened [0x80, 6, 0, 1, 0, 0, 0x12, 0]).ep0.setup.wLength != 0) ∧
    ((s1.setRemainder (some 0x5080) 0).ep0.txPtr = some 0x5080 ∧
      0 = min (s1.setRemainder (some 0x5080) 0).ep0.txLen (s1.setRemainder (some 0x5080) 0).cfg.ep0Size) ∧
    (s1.setRemainder (some 0x5080) 65).ep0.txPtr = some 0x5080 ∧
    64 = min (s1.setRemainder (some 0x5080) 65).ep0.txLen (s1.setRemainder (some 0x5080) 65).cfg.ep0Size := by decide

/-- A SETUP in endpoint 0's EVEN buffer: GET_STATUS(endpoint 4). -/
def setupDone : State := s1.store 0x3000 [0x82, 0, 0, 0, 4, 0, 2, 0]

theorem test_witness_Ep0SetupCapturesAndDispatches :
    (0#6) = slotOf 0 .rx .even ∧ Reachable setupDone.cfg (setupDone.slot 0).addr 8 ∧
    classifyRequest setupDone.cfg (decodeSetup (memRead setupDone.mem (setupDone.slot 0).addr 8)).bRequest
      (decodeSetup (memRead setupDone.mem (setupDone.slot 0).addr 8)).bmRequestType ≠ .setConfiguration ∧
    setupDone.cfg.numClassHooks = 0 ∧ setupDone.cfg.eCmp ≤ setupDone.cfg.nEp.toNat ∧ setupDone.memCanonical ∧
    setupDone.cfg.replyAddr.toNat + 2 ≤ 2 ^ 32 := by
  unfold Reachable State.memCanonical; decide

/-- A full OUT packet in endpoint 0's ODD buffer; the hook silent, or with this answer. -/
def outDone : State := s1.setDesc 1 0x00400044
def outAnswered (o : OutOutcome) (tm : Option Nat) : State :=
  { outDone with env := { outDone.env with outAnswers := [⟨[], o, tm⟩] } }

theorem test_witness_Ep0OutAsksHook :
    ((1#6) = slotOf 0 .rx .odd ∧
      false = (outDone.ep0.transferOpen && !outDone.ep0.setup.bmRequestType.getLsbD 7) ∧
      Reachable outDone.cfg (outDone.slot 1).addr (descCount (outDone.slot 1).desc).toNat ∧ outDone.env.outAnswers = []) ∧
    (Reachable (outAnswered .ack (some 255)).cfg ((outAnswered .ack (some 255)).slot 1).addr
        (descCount ((outAnswered .ack (some 255)).slot 1).desc).toNat ∧
      (outAnswered .ack (some 255)).env.outAnswers = ⟨[], .ack, some 255⟩ :: [] ∧
      255 ≤ (outAnswered .ack (some 255)).cfg.timerMax) ∧
    Reachable (outAnswered .defer none).cfg ((outAnswered .defer none).slot 1).addr
      (descCount ((outAnswered .defer none).slot 1).desc).toNat ∧
    (outAnswered .defer none).env.outAnswers = ⟨[], .defer, none⟩ :: [] := by
  unfold Reachable; decide

theorem test_witness_FixedReplies :
    s1.memCanonical ∧ 8 ≤ s1.cfg.ep0Size ∧ s1.cfg.replyAddr.toNat + 2 ≤ 2 ^ 32 ∧
    (withSetup s1 [0x00, 0x05, 0x7F, 0, 0, 0, 0, 0]).ep0.setup.bRequest = 0x05 ∧
    (withSetup s1 [0x00, 0x05, 0x7F, 0, 0, 0, 0, 0]).ep0.setup.bmRequestType = 0x00 := by
  unfold State.memCanonical; decide

/-- The second of three entries is the first that matches GET_DESCRIPTOR(string 2, language 0x0409). -/
def listed : State :=
  withSetup { s1 with cfg := { Config.default with
    descList := [⟨0x0100, 0, 0x4000, 18⟩, ⟨0x0302, 0x0409, 0x4100, 0⟩, ⟨0x0302, 0x0409, 0x4200, 0⟩] } }
    [0x80, 6, 2, 3, 9, 4, 0xFF, 0]

theorem test_witness_GetDescriptorSendsFirstMatch :
    (listed.cfg.descList = [⟨0x0100, 0, 0x4000, 18⟩] ++ ⟨0x0302, 0x0409, 0x4100, 0⟩ :: [⟨0x0302, 0x0409, 0x4200, 0⟩] ∧
      (∀ d ∈ ([⟨0x0100, 0, 0x4000, 18⟩] : List DescEntry),
        d.wValue ≠ listed.ep0.setup.wValue ∨ d.wIndex ≠ listed.ep0.setup.wIndex) ∧
      0x0302 = listed.ep0.setup.wValue ∧ 0x0409 = listed.ep0.setup.wIndex ∧
      (if listed.ep0.setup.wValue.extractLsb' 8 8 = 3#8 then (listed.byte 0x4100).toNat else 0) < 2 ^ 32) ∧
    ∀ d ∈ (withSetup s1 [0x80, 6, 2, 3, 9, 4, 0xFF, 0]).cfg.descList,
      d.wValue ≠ (withSetup s1 [0x80, 6, 2, 3, 9, 4, 0xFF, 0]).ep0.setup.wValue ∨
      d.wIndex ≠ (withSetup s1 [0x80, 6, 2, 3, 9, 4, 0xFF, 0]).ep0.setup.wIndex := by decide

/-- `s1` with this `wValue` and `wIndex` captured, and `E_CMP` = `c`. -/
def asked (v w : Byte) (c : Nat) : State :=
  withSetup { s1 with cfg := { Config.default with eCmp := c } } [0x02, 0x01, v, 0, w, 0, 2, 0]

/-- The index 5 above `E_CMP` = 4, 5 that passes `E_CMP` = 5 and exceeds `N_EP`, and 4, with the bit 7 of
`wIndex` set for the feature pair. -/
theorem test_witness_EndpointRequests :
    (4 < ((asked 0 5 4).ep0.setup.wIndex &&& (asked 0 5 4).cfg.statusIndexMask).toNat ∧
      ((asked 0 5 5).ep0.setup.wIndex &&& (asked 0 5 5).cfg.statusIndexMask).toNat ≤ (asked 0 5 5).cfg.eCmp ∧
      (asked 0 5 5).cfg.nEp.toNat < ((asked 0 5 5).ep0.setup.wIndex &&& (asked 0 5 5).cfg.statusIndexMask).toNat) ∧
    (((asked 0 4 4).ep0.setup.wIndex &&& (asked 0 4 4).cfg.statusIndexMask).toNat = 4 ∧ (asked 0 4 4).memCanonical ∧
      8 ≤ (asked 0 4 4).cfg.ep0Size ∧ (asked 0 4 4).cfg.replyAddr.toNat + 2 ≤ 2 ^ 32) ∧
    (((asked 0 0x85 4).ep0.setup.wIndex &&& (asked 0 0x85 4).cfg.featureIndexMask).toNat = 5 ∧
      (asked 1 0x84 4).ep0.setup.wValue ≠ 0 ∧
      ((asked 0 0x85 5).ep0.setup.wIndex &&& (asked 0 0x85 5).cfg.featureIndexMask).toNat ≤ (asked 0 0x85 5).cfg.eCmp) ∧
    ((asked 0 0x84 4).ep0.setup.wIndex &&& (asked 0 0x84 4).cfg.featureIndexMask).toNat = 4 ∧
    (asked 0 0x84 4).ep0.setup.wValue = 0 ∧ (asked 0 0x84 4).endptReg (BitVec.ofNat 4 4) &&& 0xE0 = 0 := by
  unfold State.memCanonical; decide

/-- Packets 1 to 4 bound and queued, the rest free. -/
def busy : State :=
  withMap (withTx ((s1.setSlot 12 ⟨0x00400088, 0x2040⟩).setSlot 10 ⟨0x00400088, 0x2080⟩ |>.setEndpoint 3
    { s1.endpoint 3 with rxq := [3] }) 2 .noneFreeEvenFirst [4]) 0x87F00000

/-- From `busy` every receive bank gets a packet, the torn-down ones among them; with one packet in all, the second bank
gets none; a segregated build. -/
theorem test_witness_SetConfigurationTearsDown :
    (busy.tornPackets = [2, 1, 4, 3] ∧ busy.teardownReady ∧ 0 < busy.cfg.ep0Size ∧
      (allocEach (Config.rxRequests busy.cfg) busy.poolReturned).1 = [((3, .even), some 0), ((3, .odd), some 1)] ∧
      (busy.cfg.epConfig.get 3).getLsbD 3 = true ∧ (busy.cfg.epConfig.get 4).getLsbD 3 = false) ∧
    ((withMap s1 0x00100000).teardownReady ∧
      (allocEach (Config.rxRequests Config.default) (withMap s1 0x00100000).poolReturned).1 =
        [((3, .even), some 11), ((3, .odd), none)]) ∧
    ((withCfg segregated).teardownReady ∧
      (allocEach (Config.rxRequests segregated) (withCfg segregated).poolReturned).1 =
        [((3, .even), some 6), ((3, .odd), some 7)]) := by
  unfold State.teardownReady; decide

/-- The free structure after reset is sound, under either strategy. -/
theorem test_witness_poolSound : State.reset.poolSound ∧ (withCfg segregated).poolSound := by
  constructor
  · exact show (12 : Nat) ≤ 32 by decide
  · exact show (∀ i, i < 12 → 1 ≤ ((withCfg segregated).pkt i).owner ∧ ((withCfg segregated).pkt i).owner ≤ 4) ∧
      ∀ e ∈ segregated.endpoints, ((withCfg segregated).pool.freeList.get e).Nodup ∧
        ∀ i ∈ (withCfg segregated).pool.freeList.get e, i < 12 ∧ ((withCfg segregated).pkt i).owner = e.toNat by decide

/-- Two class hooks registered, and the answers to come. -/
def hooked (l : List ClassAnswer) : State :=
  { s1 with cfg := { Config.default with numClassHooks := 2 }, env := { s1.env with classAnswers := l } }

/-- A hook that declines and sets the timer, one that does neither, and answers that end the request. -/
def declines (tm : Option Nat) : ClassAnswer := ⟨[], .notHandled, tm⟩
def replies (bytes : List Byte) : ClassAnswer := ⟨[], .reply bytes, some 255⟩

/-- A request of no standard row. -/
def classAsked : State := withSetup (hooked [declines (some 5), declines none]) [0x21, 0x0A, 0, 0, 0, 0, 0, 0]

/-- Two hooks that decline, one answer only, a reply within and above `REPLY_BUF_SIZE`, a deferral. -/
theorem test_witness_OtherRequestsAskHooks :
    (classAsked.env.classAnswers = [declines (some 5), declines none] ++ [] ∧
      [declines (some 5), declines none] = [some 5, none].map (fun tm => ⟨[], .notHandled, tm⟩) ∧
      [some 5, none].length = classAsked.cfg.numClassHooks ∧
      Runs (forEach askHook [declines (some 5), declines none] classAsked) ∧
      classifyRequest classAsked.cfg classAsked.ep0.setup.bRequest classAsked.ep0.setup.bmRequestType = .other) ∧
    (hooked [declines none]).env.classAnswers = [declines none] ++ [] ∧
    (∀ bs ∈ [[1#8, 2, 3, 4, 5, 6, 7, 8], [1, 2, 3, 4, 5, 6, 7, 8, 9]],
      (hooked [declines (some 5), replies bs]).env.classAnswers = [declines (some 5)] ++ [replies bs] ∧
      [some 5].length < (hooked [declines (some 5), replies bs]).cfg.numClassHooks) ∧
    ([1#8, 2, 3, 4, 5, 6, 7, 8].length ≤ (hooked []).cfg.replyBufSize ∧
      (hooked []).cfg.replyBufSize < [1#8, 2, 3, 4, 5, 6, 7, 8, 9].length ∧ (hooked []).memCanonical ∧
      (hooked []).cfg.replyAddr.toNat + 8 ≤ 2 ^ 32 ∧ 255 ≤ (hooked []).cfg.timerMax ∧
      min 8 (hooked []).ep0.setup.wLength.toNat < (hooked []).cfg.ep0Size) ∧
    (hooked [⟨[], .deferred, some 255⟩]).env.classAnswers = [] ++ ⟨[], .deferred, some 255⟩ :: [] := by
  refine ⟨⟨rfl, rfl, rfl, ⟨_, rfl⟩, rfl⟩, rfl, ?_, ?_, rfl⟩
  · decide
  · unfold State.memCanonical; decide

/-- R254: the first hook declines and sets the timer, the second ends the request. -/
theorem test_hooks_in_order :
    Next (exec (.reqOther 0x0A 0x21) (hooked [declines (some 5), ⟨[], .deferred, none⟩, declines none])) (fun t =>
      t.ctx.rebootTimer = 5 && t.env.classAnswers = [declines none] && t.slot 2 = s1.slot 2) = true ∧
    Next (exec (.reqOther 0x0A 0x21) (hooked [declines (some 5), declines none, replies [1]])) (fun t =>
      t.ctx.rebootTimer = 5 && t.endptReg 0 = 0x0F && t.env.classAnswers = [replies [1]]) = true := by decide

theorem test_witness_IrqSofCountsDown :
    s1.env.tickScripts = [] ∧ s1.ep0.configuration = 0 ∧ (configured s1 1).ep0.configuration ≠ 0 ∧
    1 < ((configured s1 1).setTimer 2).ctx.rebootTimer ∧ ((configured s1 1).setTimer 1).ctx.rebootTimer = 1 := by decide

/-- Endpoint 4's ODD transmit slot completed with packet 1; the same with endpoint 3 starved, configured. -/
def sentOne : State := holding.setSlot 19 ⟨0x00400064, 0x2040⟩
def sentStarved : State := configured (sentOne.setStarved 3 true) 1

/-- The same packet's receive completion in slot 13 waits behind the transmit one. -/
def sentTwice : State := withFifo (sentOne.setSlot 13 ⟨0x00050044, 0x2040⟩) [0x4C, 0x34]

theorem test_witness_TxDoneReleasesThenCompletes :
    (1 ≤ (4#4).toNat ∧ (4#4).toNat ≤ holding.cfg.nEp.toNat ∧
      holding.pktOfAddr (holding.slot (slotOf 4 .tx .odd)).addr = none) ∧
    ((4#4).toNat ≤ sentOne.cfg.nEp.toNat ∧
      sentOne.pktOfAddr (sentOne.slot (slotOf 4 .tx .odd)).addr = some (1#16).toNat ∧
      sentOne.pktLoose (1#16).toNat = true ∧ sentOne.pktCompletingElse (slotOf 4 .tx .odd) (1#16).toNat = false ∧
      sentOne.starvedTarget (1#16).toNat = none) ∧
    (4#4).toNat ≤ sentStarved.cfg.nEp.toNat ∧
    sentStarved.pktOfAddr (sentStarved.slot (slotOf 4 .tx .odd)).addr = some (1#16).toNat ∧
    sentStarved.pktLoose (1#16).toNat = true ∧
    sentStarved.pktCompletingElse (slotOf 4 .tx .odd) (1#16).toNat = false ∧
    sentStarved.starvedTarget (1#16).toNat = some 3 ∧ sentStarved.ep0.configuration ≠ 0 ∧
    sentTwice.pktOfAddr (sentTwice.slot (slotOf 4 .tx .odd)).addr = some 1 ∧
    sentTwice.pktCompletingElse (slotOf 4 .tx .odd) 1 = true := by decide

/-- Endpoint 3's ODD receive slot completed with `n` bytes in packet 1. -/
def gotOne (m desc : Word) : State := withMap (State.reset.setSlot 13 ⟨desc, 0x2040⟩) m

/-- No byte; an address that is no packet; a byte, with packet 2 to replace packet 1 and with none. -/
theorem test_witness_RxDoneQueuesAndReplaces :
    ((13#6) = slotOf 3 .rx .odd ∧ 1 ≤ (3#4).toNat ∧ (3#4).toNat ≤ (gotOne 0x3FF00000 0x44).cfg.nEp.toNat ∧
      descCount ((gotOne 0x3FF00000 0x44).slot 13).desc = 0) ∧
    (descCount ((State.reset.setSlot 13 ⟨0x03FF0044, 0x2001⟩).slot 13).desc ≠ 0 ∧
      (State.reset.setSlot 13 ⟨0x03FF0044, 0x2001⟩).pktOfAddr
        ((State.reset.setSlot 13 ⟨0x03FF0044, 0x2001⟩).slot 13).addr = none) ∧
    ∀ c ∈ [(0x3FF00000#32, some 2), (0, none)],
      1 = (descCount ((gotOne c.1 0x00010044).slot 13).desc).toNat ∧
      (gotOne c.1 0x00010044).pktOfAddr ((gotOne c.1 0x00010044).slot 13).addr = some 1 ∧
      (gotOne c.1 0x00010044).pktQueued 1 = false ∧ (gotOne c.1 0x00010044).pktFree 1 = false ∧
      (((gotOne c.1 0x00010044).setPkt 1 ⟨1, 0, ((gotOne c.1 0x00010044).pkt 1).owner⟩).allocate
        ((3#4).setWidth 8)).1 = c.2 := by decide

theorem test_witness_RoutesOfStatusBytes :
    s1.cfg.nEp.toNat < (statEp 0x50).toNat ∧ (withFifo s1 [0x50]).regs.statFifo = 0x50 :: [] ∧
    (s1.setDesc 3 0x00000064).tokOf (slotOf 0 .tx .odd) = 0x9 ∧
    (withFifo s1 [0x0C]).regs.statFifo = statOf 0 .tx .odd :: [] ∧
    (0x5#4) ≠ 0x1 ∧ (0x5#4) ≠ 0x9 ∧ (0x5#4) ≠ 0xD ∧ (s1.setDesc 1 0x00000014).tokOf (slotOf 0 .rx .odd) = 0x5 := by decide

theorem test_witness_IrqEntryTakesInterrupt :
    (s1.ctx.inIsr = false ∧ s1.istatReg &&& s1.regs.intEn = 0) ∧ (s1.setIrqMask true).ctx.irqMask = true ∧
    (inHandler s1).ctx.inIsr = true ∧
    (s1.ctx.irqMask = false ∧ (withIstat s1 0x01).istatReg &&& (withIstat s1 0x01).regs.intEn ≠ 0 ∧
      decodeIst (withIstat s1 0x01).istatReg = some .irqReset) := by decide

theorem test_witness_WhoChangesAddressAndConfiguration :
    Next (exec .irqReset { s1 with regs := { s1.regs with addr := 0x34 } }) (fun t => t.regs.addr ≠ 0x34) = true ∧
    Next (exec .reqSetConfiguration (withSetup (withMap s1 0) [0x00, 0x09, 0x01, 0, 0, 0, 0, 0]))
      (fun t => t.ep0.configuration ≠ s1.ep0.configuration) = true := by decide

end Sys2Proof.Tests
end

section
/-! The invariants of every step: the status queue (spec/10_state.md R32), the reboot timer (R54) and the
parameters (spec/00_scope.md R5). -/

namespace Sys2Proof.Machine

theorem Move.cfg_eq {s t : State} (h : Move s t) : t.cfg = s.cfg := by cases h <;> rfl

/-- A move leaves an end part of the status queue (all of it, all but the oldest entry, or nothing), or is the
link's push, which it makes only while there is room (spec/10_state.md R32, spec/40_bdt_link.md R144, R149). -/
theorem Move.statFifo_cases {s t : State} (h : Move s t) :
    t.regs.statFifo <:+ s.regs.statFifo ∨
    ∃ ep d b, ep.toNat ≤ s.cfg.nEp.toNat ∧ s.regs.statFifo.length < s.cfg.statDepth ∧
      t.regs.statFifo = s.regs.statFifo ++ [statOf ep d b] := by
  cases h with
  | push ep d b he hl => exact .inr ⟨ep, d, b, he, hl, rfl⟩
  | clear v =>
    left
    show (if v.getLsbD 3 then s.regs.statFifo.tail else s.regs.statFifo) <:+ _
    split
    · exact List.tail_suffix _
    · exact List.suffix_rfl
  | drop => exact .inl List.nil_suffix
  | init => exact .inl List.nil_suffix
  | regs r _ _ hq => exact .inl (hq ▸ List.suffix_rfl)
  | _ => exact .inl List.suffix_rfl

theorem Move.keeps_statQueueOk (s t : State) (h : Move s t) (hs : s.statQueueOk) : t.statQueueOk := by
  obtain ⟨hlen, hstat⟩ := hs
  unfold State.statQueueOk
  rw [h.cfg_eq]
  rcases h.statFifo_cases with hsuf | ⟨ep, d, b, hep, hroom, hq⟩
  · exact ⟨hsuf.length_le.trans hlen, fun st hst => hstat st (hsuf.subset hst)⟩
  · rw [hq]
    refine ⟨by simpa using hroom, fun st hst => ?_⟩
    rcases List.mem_append.mp hst with hold | hnew
    · exact hstat st hold
    · exact ⟨ep, d, b, List.mem_singleton.mp hnew, hep⟩

/-- Of the moves only `ctx` and bus initialisation write the reboot timer. -/
theorem Move.keeps_timerOk (s t : State) (h : Move s t) (hs : s.timerOk) : t.timerOk := by
  cases h with
  | ctx v hv => exact hv.elim (fun hdown => hdown.trans hs) id
  | init => exact Nat.zero_le _
  | _ => exact hs

theorem step_cfg {s t : State} (h : step s = .next t) : t.cfg = s.cfg :=
  step_keeps (P := fun u => u.cfg = s.cfg) (fun _ _ hm hu => hm.cfg_eq.trans hu)
    (fun _ _ _ _ _ _ hu => hu) rfl h

/-- Settles O14: only the link lengthens the status queue, under the gate on its room, and with the status byte of
a slot of an existing endpoint; an armed word written to a slot leaves it alone. -/
theorem stepKeepsStatusQueue : Obligations.StepKeepsStatusQueue := fun _ _ hs h =>
  step_keeps Move.keeps_statQueueOk (fun _ _ _ _ _ _ hu => hu) hs h

/-- Settles O16: no move writes the parameters, and every write of the reboot timer lowers it or keeps its bound. -/
theorem stepKeepsTimerBoundAndParameters : Obligations.StepKeepsTimerBoundAndParameters := fun _ _ h =>
  ⟨step_cfg h, fun hs => step_keeps Move.keeps_timerOk (fun _ _ _ _ _ _ hu => hu) hs h⟩

end Sys2Proof.Machine
end

section
/-! Who changes the device address and the configuration value (spec/10_state.md R25, R52): the two as one value of
the state, `identity`; that everything but the writers named keeps it; and what each writer of one of the two keeps
of the other. -/

namespace Sys2Proof.Machine

/-- The device address and the configuration value. -/
def State.identity (s : State) : BitVec 7 × Byte := (s.regs.addr, s.ep0.configuration)

/-- Every next state of the outcome has the `f` of `s`. -/
def Keeps {α : Type} (f : State → α) (s : State) (o : Out) : Prop := ∀ t, o = .next t → f t = f s

variable {α β : Type} {f : State → α} {s : State}

/-! ## Keeping a value through the ways outcomes are built -/

theorem Keeps.next {t : State} (h : f t = f s) : Keeps f s (.next t) := by
  intro u hu; injection hu with hu; exact hu ▸ h

theorem Keeps.fault (r : Fault) : Keeps f s (.fault r) := fun _ h => by injection h

theorem Keeps.refused (r : Refusal) : Keeps f s (.refused r) := fun _ h => by injection h

theorem Keeps.ite {c : Prop} [Decidable c] {a b : Out} (ha : Keeps f s a) (hb : Keeps f s b) :
    Keeps f s (if c then a else b) := by split <;> assumption

/-- An outcome reached after updates that keep the value. -/
theorem Keeps.after {t : State} {o : Out} (ht : f t = f s) (h : Keeps f t o) : Keeps f s o :=
  fun u hu => (h u hu).trans ht

theorem Keeps.andThen {o : Out} {k : State → Out} (h : Keeps f s o) (hk : ∀ t, Keeps f t (k t)) :
    Keeps f s (andThen o k) := by
  intro u hu
  obtain ⟨t, ht, hu⟩ := andThen_eq_next.mp hu
  exact (hk t u hu).trans (h t ht)

theorem Keeps.forEach {γ : Type} {g : γ → State → Out} (hg : ∀ a t, Keeps f t (g a t)) (l : List γ) (s : State) :
    Keeps f s (forEach g l s) := by
  induction l generalizing s with
  | nil => exact .next rfl
  | cons a l ih => exact (hg a s).andThen ih

theorem Keeps.withSpan {c : Config} {a : Word} {n : Nat} {k : Out} (h : Keeps f s k) :
    Keeps f s (withSpan c a n k) := .ite (.fault _) (.ite h (.refused _))

theorem Keeps.withReceive {u : State} {a : Word} {n : Nat} {k : Out} (h : Keeps f s k) :
    Keeps f s (u.withReceive a n k) := .ite (.withSpan h) (.refused _)

/-- What keeps a value keeps every part of it. -/
theorem Keeps.part {o : Out} (g : α → β) (h : Keeps f s o) : Keeps (fun t => g (f t)) s o :=
  fun t ht => congrArg g (h t ht)

/-- What keeps both keeps the device address. -/
theorem Keeps.addr {o : Out} (h : Keeps State.identity s o) : Keeps (fun t => t.regs.addr) s o := h.part Prod.fst

theorem foldl_keeps {γ : Type} {g : State → γ → State} (hg : ∀ t a, f (g t a) = f t) (l : List γ) (s : State) :
    f (l.foldl g s) = f s := by
  induction l generalizing s with
  | nil => rfl
  | cons a l ih => exact (ih _).trans (hg s a)

/-- A handler that goes on after an operation is, as a step, the two in sequence. -/
theorem toOut_after (o : Out) (k : State → ReqOut) :
    (ReqOut.after o k).toOut = andThen o fun t => (k t).toOut := by cases o <;> rfl

/-! ## Updates that keep both -/

theorem allocate_identity (s : State) (ep : Byte) : (s.allocate ep).2.identity = s.identity := by
  rw [allocate_pool]; rfl

theorem allocShared_identity (s : State) : s.allocShared.2.identity = s.identity := by
  unfold State.allocShared; split <;> rfl

theorem allocSegregated_identity (s : State) (ep : Byte) : (s.allocSegregated ep).2.identity = s.identity := by
  unfold State.allocSegregated
  split
  · split <;> rfl
  · rfl

theorem poolPut_identity (s : State) (i : Nat) : (s.poolPut i).identity = s.identity := by
  rw [poolPut_pool]; rfl

theorem redirectTo_identity (s : State) (ep : Ep) (b : Bank) (i : Nat) :
    (s.redirectTo ep b i).identity = s.identity := by unfold State.redirectTo; split <;> rfl

theorem rxPop_identity (s : State) (ep : Byte) : (s.rxPop ep).2.identity = s.identity := by
  unfold State.rxPop
  split
  · split <;> rfl
  · rfl

theorem txPop_identity (s : State) (ep : Ep) : (s.txPop ep).2.identity = s.identity := by
  unfold State.txPop; split <;> rfl

theorem submit_identity (s : State) (ep : Ep) (i : Nat) : (s.submit ep i).identity = s.identity := by
  unfold State.submit; split <;> rfl

theorem completeTx_identity (s : State) (ep : Ep) (b : Bank) : (s.completeTx ep b).identity = s.identity := by
  have h := txPop_identity s ep
  unfold State.completeTx
  split <;> rename_i heq <;> rw [heq] at h <;> exact h

theorem ep0SendSecond_identity (s : State) (a : Word) (n : Nat) : (s.ep0SendSecond a n).identity = s.identity := by
  unfold State.ep0SendSecond; dsimp only; split <;> rfl

theorem ep0Send_identity (s : State) (a : Word) (n : Nat) : (s.ep0Send a n).identity = s.identity := by
  unfold State.ep0Send State.ep0SendClamped
  dsimp only
  split
  · rfl
  · exact ep0SendSecond_identity ..

theorem reply_identity (s : State) (bytes : List Byte) : (s.reply bytes).identity = s.identity :=
  ep0Send_identity ..

theorem statusIn_identity (s : State) : s.statusIn.identity = s.identity := ep0Send_identity ..

theorem setAddress_identity (s : State) : s.setAddress.identity = s.identity := statusIn_identity _

theorem drainRemainder_identity (s : State) : s.drainRemainder.identity = s.identity := by
  unfold State.drainRemainder
  split
  · rfl
  · dsimp only; split <;> rfl

theorem nextClassAnswer_identity (s : State) : s.nextClassAnswer.2.identity = s.identity := by
  unfold State.nextClassAnswer; split <;> rfl

theorem nextOutAnswer_identity (s : State) : s.nextOutAnswer.2.identity = s.identity := by
  unfold State.nextOutAnswer; split <;> rfl

theorem nextTickScript_identity (s : State) : s.nextTickScript.2.identity = s.identity := by
  unfold State.nextTickScript; split <;> rfl

theorem acknowledge_identity (s : State) (o : OutOutcome) : (s.acknowledge o).identity = s.identity := by
  cases o <;> rfl

theorem provision_identity (s : State) (ep : Ep) (b : Bank) : (s.provision ep b).identity = s.identity := by
  have h := allocate_identity s (ep.setWidth 8)
  unfold State.provision
  split <;> rename_i heq <;> rw [heq] at h <;> exact h

theorem enableEp_identity (s : State) (ep : Ep) : (s.enableEp ep).identity = s.identity := by
  unfold State.enableEp
  dsimp only
  split
  · rw [provision_identity, provision_identity]; rfl
  · rfl

theorem enableAll_identity (s : State) : s.enableAll.identity = s.identity := foldl_keeps enableEp_identity _ s

theorem replaceRx_identity (s : State) (ep : Ep) (b : Bank) (k : SlotIx) :
    (s.replaceRx ep b k).identity = s.identity := by
  have h := allocate_identity s (ep.setWidth 8)
  unfold State.replaceRx
  split <;> rename_i heq <;> rw [heq] at h <;> exact h

theorem countdown_identity (s : State) : s.countdown.identity = s.identity := by
  unfold State.countdown
  split
  · rfl
  · split <;> rfl

/-! ## Operations that keep both -/

theorem keeps_poolReturn (s : State) (i : Nat) : Keeps State.identity s (s.poolReturn i) :=
  .ite (.refused _) (.ite (.refused _) (.next (poolPut_identity s i)))

theorem keeps_redirect (s : State) (ep : Ep) (i : Nat) : Keeps State.identity s (s.redirect ep i) :=
  .ite (.next (redirectTo_identity ..)) (.ite (.next (redirectTo_identity ..))
    (.after (t := s.setStarved ep false) rfl (keeps_poolReturn _ i)))

theorem keeps_releaseTo (s : State) (i : Nat) : Keeps State.identity s (s.releaseTo i) := by
  unfold State.releaseTo
  split
  · exact .ite (keeps_redirect s _ i) (keeps_poolReturn s i)
  · exact keeps_poolReturn s i

theorem keeps_release (s : State) (p : Option Nat) : Keeps State.identity s (s.release p) := by
  cases p with
  | none => exact .next rfl
  | some i => exact .ite (.refused _) (.ite (.refused _) (keeps_releaseTo s i))

theorem keeps_execRelease (p : BitVec 16) (s : State) : Keeps State.identity s (execRelease p s) :=
  .ite (.next rfl) (.ite (.refused _) (.ite (.refused _) (keeps_release s _)))

theorem keeps_rxEnqueue (s : State) (ep : Ep) (i : Nat) : Keeps State.identity s (s.rxEnqueue ep i) :=
  .ite (.refused _) (.ite (.refused _) (.ite (.refused _) (.next rfl)))

theorem keeps_txSubmit (ep : Byte) (p : BitVec 16) (s : State) : Keeps State.identity s (execTxSubmit ep p s) :=
  .ite (.next rfl) (.ite (.refused _) (.ite (.refused _) (.ite (.refused _) (.next (submit_identity ..)))))

theorem keeps_isoSubmit (ep : Byte) (a : Word) (n : BitVec 10) (s : State) :
    Keeps State.identity s (execIsoSubmit ep a n s) :=
  .ite (.next rfl) (.ite (.refused _) (.ite (.refused _) (.ite (.refused _) (.next rfl))))

theorem keeps_armTimer (s : State) (n : Nat) : Keeps State.identity s (s.armTimer n) :=
  .ite (.refused _) (.next rfl)

theorem keeps_ep0Transmit (a : Word) (n : BitVec 10) (s : State) :
    Keeps State.identity s (execEp0Transmit a n s) :=
  .ite (.refused _) (.ite (.refused _) (.ite (.refused _) (.next rfl)))

theorem keeps_appStep (a : AppAct) (s : State) : Keeps State.identity s (appStep a s) := by
  cases a with
  | fill i bytes => exact .ite (.refused _) (.ite (.refused _) (.ite (.refused _) (.withSpan (.next rfl))))
  | cursor i index => exact .ite (.refused _) (.ite (.refused _) (.next rfl))
  | store addr bytes => exact .ite (.fault _) (.ite (.refused _) (.ite (.refused _) (.next rfl)))

theorem keeps_runCall (c : HookCall) (s : State) : Keeps State.identity s (runCall c s) := by
  cases c with
  | alloc ep => exact .next (allocate_identity s ep)
  | release p => exact keeps_execRelease p s
  | txSubmit ep p => exact keeps_txSubmit ep p s
  | isoSubmit ep a n => exact keeps_isoSubmit ep a n s
  | ep0Transmit a n => exact keeps_ep0Transmit a n s
  | setRebootTimer n => exact keeps_armTimer s _
  | app a => exact keeps_appStep a s

theorem keeps_runCalls (cs : List HookCall) (s : State) : Keeps State.identity s (runCalls cs s) :=
  .forEach keeps_runCall cs s

theorem keeps_hookTimer (s : State) (t : Option Nat) : Keeps State.identity s (s.hookTimer t) := by
  cases t with
  | none => exact .next rfl
  | some n => exact keeps_armTimer s n

/-! ## Requests -/

theorem keeps_stall0 (s : State) : Keeps State.identity s (raiseStall0 s).toOut := .next rfl

theorem keeps_getDescriptor (s : State) : Keeps State.identity s s.getDescriptor.toOut := by
  unfold State.getDescriptor
  split
  · exact .next (ep0Send_identity ..)
  · exact keeps_stall0 s

theorem keeps_indexed {i : Nat} {m : Bool} {k : Ep → ReqOut} (hk : ∀ e, Keeps State.identity s (k e).toOut) :
    Keeps State.identity s (indexed s i m k).toOut := by
  unfold indexed
  split
  · exact keeps_stall0 s
  · split
    · exact .fault _
    · exact hk _

theorem keeps_getStatusEp (s : State) : Keeps State.identity s s.getStatusEp.toOut :=
  keeps_indexed fun _ => .next (reply_identity ..)

theorem keeps_featureEp (s : State) (v : Bool) : Keeps State.identity s (s.featureEp v).toOut :=
  keeps_indexed fun _ => .next (statusIn_identity _)

theorem keeps_classHooks (n : Nat) (s : State) : Keeps State.identity s (classHooks n s).toOut := by
  induction n generalizing s with
  | zero => exact keeps_stall0 s
  | succ n ih =>
    rw [classHooks, toOut_after]
    refine .andThen (.after (nextClassAnswer_identity s) (keeps_runCalls _ _)) fun t => ?_
    rw [toOut_after]
    refine (keeps_hookTimer t _).andThen fun u => ?_
    split
    · exact ih u
    · split
      · exact .refused _
      · exact .next (reply_identity ..)
    · exact .next rfl

theorem keeps_returnSlot (k : SlotIx) (s : State) : Keeps State.identity s (returnSlot k s) := by
  unfold returnSlot
  split
  · split
    · exact keeps_poolReturn s _
    · exact .next rfl
  · exact .next rfl

theorem keeps_returnAll (l : List Nat) (s : State) : Keeps State.identity s (returnAll l s) :=
  .forEach (fun i t => keeps_poolReturn t i) l s

theorem keeps_tearDown (ep : Ep) (s : State) : Keeps State.identity s (tearDown ep s) :=
  (keeps_returnAll _ s).andThen fun t => (keeps_returnAll _ t).andThen fun _ => .next rfl

theorem keeps_tearDownAll (s : State) : Keeps State.identity s (tearDownAll s) :=
  (Keeps.forEach keeps_returnSlot _ s).andThen fun t => .forEach keeps_tearDown _ t

/-- SET_CONFIGURATION writes the configuration value first; it and the rest keep the device address. -/
theorem keeps_addr_setConfiguration (s : State) : Keeps (fun t => t.regs.addr) s s.setConfiguration := by
  have hbegin : (s.beginConfiguration s.ep0.setup.configValue).regs.addr = s.regs.addr :=
    foldl_keeps (f := fun t => t.regs.addr) (g := fun t e => t.setStarved e false) (fun _ _ => rfl) _ _
  have hrest : Keeps State.identity (s.beginConfiguration s.ep0.setup.configValue) s.setConfiguration :=
    (keeps_tearDownAll _).andThen fun t => .next ((statusIn_identity _).trans (enableAll_identity t))
  exact .after hbegin hrest.addr

/-- Of the requests only SET_CONFIGURATION may change one of the two, and that not the address: SET_ADDRESS latches
it for the IN completion (spec/44_control_transfer.md R246). -/
theorem keeps_addr_runRequest (s : State) : Keeps (fun t => t.regs.addr) s s.runRequest.toOut := by
  unfold State.runRequest
  split
  · exact (Keeps.next (reply_identity ..)).addr
  · exact (keeps_getStatusEp s).addr
  · exact (keeps_featureEp s _).addr
  · exact (keeps_featureEp s _).addr
  · exact (Keeps.next (setAddress_identity s)).addr
  · exact (keeps_getDescriptor s).addr
  · exact (Keeps.next (reply_identity ..)).addr
  · rw [toOut_after]
    exact (keeps_addr_setConfiguration s).andThen fun _ => .next rfl
  · exact (keeps_classHooks _ s).addr

theorem keeps_addr_dispatchRequest (s : State) : Keeps (fun t => t.regs.addr) s s.dispatchRequest := by
  have h := keeps_addr_runRequest s
  unfold State.dispatchRequest
  split <;> rename_i heq <;> rw [heq] at h
  · have ht := h _ rfl
    exact .next ht
  · have ht := h _ rfl
    exact .next ht
  · exact .fault _
  · exact .refused _

/-! ## Endpoint 0 and the dispatcher -/

theorem keeps_addr_ep0Setup (s : State) (k : SlotIx) : Keeps (fun t => t.regs.addr) s (s.ep0Setup k) :=
  .withSpan (.after (t := s.captureSetup k) rfl (keeps_addr_dispatchRequest _))

theorem keeps_ep0Out (s : State) (k : SlotIx) : Keeps State.identity s (s.ep0Out k) :=
  .withSpan (.andThen (.after (nextOutAnswer_identity s) (keeps_runCalls _ _)) fun t =>
    (keeps_hookTimer t _).andThen fun u => .next (acknowledge_identity u _))

/-- The IN completion may apply a pending address; it keeps the configuration value. -/
theorem ep0In_configuration (s : State) : s.ep0In.ep0.configuration = s.ep0.configuration := by
  have hdrain : s.drainRemainder.ep0.configuration = s.ep0.configuration :=
    congrArg Prod.snd (drainRemainder_identity s)
  have happly : s.drainRemainder.applyAddress.ep0.configuration = s.drainRemainder.ep0.configuration := by
    unfold State.applyAddress; split <;> rfl
  exact happly.trans hdrain

theorem keeps_txdone (s : State) (ep : Ep) (b : Bank) (k : SlotIx) : Keeps State.identity s (s.txdone ep b k) :=
  Keeps.andThen (.ite (.refused _) (keeps_release s _)) fun t => .next (completeTx_identity t ep b)

theorem keeps_rxData (s : State) (ep : Ep) (b : Bank) (k : SlotIx) : Keeps State.identity s (s.rxData ep b k) := by
  unfold State.rxData
  split
  · exact .refused _
  · rename_i i _
    exact Keeps.andThen (.after (t := s.setPkt i _) rfl (keeps_rxEnqueue _ ep i)) fun t =>
      .next (replaceRx_identity t ep b k)

theorem keeps_rxdone (s : State) (ep : Ep) (b : Bank) (k : SlotIx) : Keeps State.identity s (s.rxdone ep b k) :=
  .ite (.next rfl) (keeps_rxData s ep b k)

theorem keeps_routeTxdone (st : Byte) (s : State) : Keeps State.identity s (execRouteTxdone st s) := by
  unfold execRouteTxdone
  split
  · exact keeps_txdone s _ _ _
  all_goals exact .next rfl

theorem keeps_routeRxdoneZero (st : Byte) (s : State) : Keeps State.identity s (execRouteRxdoneZero st s) := by
  unfold execRouteRxdoneZero
  split <;> exact .next rfl

theorem keeps_routeRxdoneData (st : Byte) (s : State) : Keeps State.identity s (execRouteRxdoneData st s) := by
  unfold execRouteRxdoneData
  split
  · exact keeps_rxData s _ _ _
  all_goals exact .next rfl

theorem keeps_irqSof (s : State) : Keeps State.identity s s.irqSof := by
  refine Keeps.andThen (.ite (.after (countdown_identity s) ?_) (.next rfl)) fun _ => .next rfl
  exact .after (nextTickScript_identity _) (keeps_runCalls _ _)

/-! ## The link and the table -/

theorem keeps_token {ep : Byte} {d : Dir} {k : Out} (h : Keeps State.identity s k) :
    Keeps State.identity s (s.token ep d k) := by
  rcases token_cases s ep d k with hk | hk | ⟨-, -, -, -, -, -, hk⟩ <;> rw [hk]
  · exact .next rfl
  · exact .next rfl
  · exact h

theorem keeps_linkSetup (data : List Byte) (s : State) : Keeps State.identity s (execLinkSetup data s) :=
  keeps_token (.ite (.next rfl) (.withReceive (.next rfl)))

theorem keeps_linkOut (ep : Byte) (tog : Toggle) (data : List Byte) (s : State) :
    Keeps State.identity s (execLinkOut ep tog data s) :=
  keeps_token (.ite (.next rfl) (.withReceive (.next rfl)))

theorem keeps_linkIn (ep : Byte) (s : State) : Keeps State.identity s (execLinkIn ep s) :=
  keeps_token (.withSpan (.next rfl))

theorem keeps_linkError (m : Byte) (s : State) : Keeps State.identity s (execLinkError m s) := by
  refine .next ?_
  split
  · rfl
  · split <;> rfl

theorem keeps_completeSlot (s : State) (k : SlotIx) (n : BitVec 10) (kind : TokKind) :
    Keeps State.identity s (s.completeSlot k n kind) := by
  rcases completeSlot_cases s k n kind with h | ⟨data, h⟩ | ⟨ep, tog, data, h⟩ | ⟨ep, h⟩ <;> rw [h]
  · exact .next rfl
  · exact keeps_linkSetup data s
  · exact keeps_linkOut ep tog data s
  · exact keeps_linkIn ep s

theorem keeps_armOutside (s : State) (k : SlotIx) (v : Slot) : Keeps State.identity s (s.armOutside k v) :=
  fun t h => by rw [armOutside_next h]; rfl

/-- A link event that raises flags while the module is enabled. -/
theorem keeps_raiseIf (s : State) (c : Prop) [Decidable c] (v : Byte) :
    Keeps State.identity s (.next (if c then s.raiseIstat v else s)) := .next (by split <;> rfl)

/-! ## Instructions -/

/-- The instructions that may change the device address or the configuration value. -/
def setsIdentity : Instr → Bool
  | .busInit => true
  | .irqEntry => true
  | .irqTokdne => true
  | .irqReset => true
  | .route _ => true
  | .routeEp0 _ => true
  | .ep0Handle _ => true
  | .tokIn _ => true
  | .ep0In _ => true
  | .reqSetConfiguration => true
  | .reqDispatch => true
  | .tokSetup _ => true
  | .ep0Setup _ => true
  | _ => false

/-- Every other instruction keeps both. -/
theorem keeps_exec (i : Instr) (s : State) (h : setsIdentity i = false) :
    Keeps State.identity s (exec i s) := by
  cases i with
  | reqGetStatusDev => exact .next (reply_identity ..)
  | reqGetStatusEp => exact keeps_getStatusEp s
  | reqClearFeatureEp => exact keeps_featureEp s _
  | reqSetFeatureEp => exact keeps_featureEp s _
  | reqSetAddress => exact .next (setAddress_identity s)
  | reqGetDescriptor bm => exact keeps_getDescriptor s
  | reqGetConfiguration => exact .next (reply_identity ..)
  | reqOther b bm => exact keeps_classHooks _ s
  | tokOut k => exact (keeps_ep0Out s k).andThen fun _ => .next rfl
  | ep0Out k => exact keeps_ep0Out s k
  | ep0Send a n => exact .next (ep0Send_identity ..)
  | ep0Transmit a n => exact keeps_ep0Transmit a n s
  | irqSof => exact keeps_irqSof s
  | routeTxdone st => exact keeps_routeTxdone st s
  | routeRxdoneZero st => exact keeps_routeRxdoneZero st s
  | routeRxdoneData st => exact keeps_routeRxdoneData st s
  | txdone ep b k => exact .ite (keeps_txdone s ep b k) (.next rfl)
  | rxdone ep b k => exact .ite (keeps_rxdone s ep b k) (.next rfl)
  | alloc ep => exact .next (allocShared_identity s)
  | allocSeg ep => exact .next (allocSegregated_identity s ep)
  | release p => exact keeps_execRelease p s
  | poolReturn p => exact keeps_poolReturn s _
  | redirect ep p => exact .ite (.next rfl) (.ite (.refused _) (.ite (.refused _) (keeps_redirect s ep _)))
  | txSubmit ep p => exact keeps_txSubmit ep p s
  | isoSubmit ep a n => exact keeps_isoSubmit ep a n s
  | txComplete ep b => exact .ite (.next (completeTx_identity s ep b)) (.next rfl)
  | rxDequeue ep => exact .next (rxPop_identity s ep)
  | rxqEnqueue ep p => exact .ite (keeps_rxEnqueue s ep _) (.next rfl)
  | txqAppend ep p => exact .ite (.next rfl) (.ite (.refused _) (.next rfl))
  | txqPop ep => exact .ite (.next (txPop_identity s ep)) (.next rfl)
  | csEnter => exact .ite (.refused _) (.next rfl)
  | csExit => exact .ite (.next rfl) (.refused _)
  | setRebootTimer n => exact keeps_armTimer s _
  | bdtWrite ep d b n t a => exact .ite (.refused _) (keeps_armOutside s _ _)
  | bdtReadc ep d b => exact .ite (.refused _) (.ite (.refused _) (.next rfl))
  | descArmed k n b => exact .ite (.refused _) (keeps_armOutside s _ _)
  | descCompleted k n t tok => exact .ite (keeps_completeSlot s k n _) (.next rfl)
  | descUnarmed k => exact .ite (.refused _) (.ite (.refused _) (.next rfl))
  | linkSetup data => exact keeps_linkSetup data s
  | linkOut ep t data => exact keeps_linkOut ep t data s
  | linkIn ep => exact keeps_linkIn ep s
  | linkSof => exact keeps_raiseIf s _ 0x04
  | linkReset => exact keeps_raiseIf s _ 0x01
  | linkSleep => exact keeps_raiseIf s _ 0x10
  | linkStalled ep => exact keeps_raiseIf s _ 0x80
  | linkError m => exact keeps_linkError m s
  | linkNak | linkComplete | tokOther | irqStall | irqError | irqSleep | istResume | istAttach | routeIgnore
  | rxBytes | txPkts | rxPkts | bdtClear | starvedTarget | txCompleteTableA | txCompleteTableB | teardownBankMap
  | ep0Stall => exact .next rfl
  | busInit | irqEntry | irqTokdne | irqReset | route | routeEp0 | ep0Handle | tokIn | ep0In | reqSetConfiguration
  | reqDispatch | tokSetup | ep0Setup => simp [setsIdentity] at h

/-- Settles O60: all but thirteen instructions keep both values; of these, IRQ.RESET and the IN completion keep the
configuration value, and the requests and the SETUP completion keep the device address. -/
theorem whoChangesAddressAndConfiguration : Obligations.WhoChangesAddressAndConfiguration := by
  unfold Obligations.WhoChangesAddressAndConfiguration
  intro i s t h
  have addrKept : Keeps (fun u => u.regs.addr) s (exec i s) → t.regs.addr = s.regs.addr := fun hk => hk t h
  have configurationKept : Keeps (fun u => u.ep0.configuration) s (exec i s) →
      t.ep0.configuration = s.ep0.configuration := fun hk => hk t h
  cases hi : setsIdentity i with
  | false =>
    have hk := keeps_exec i s hi
    exact ⟨absurd (addrKept hk.addr), absurd (configurationKept (hk.part Prod.snd))⟩
  | true =>
    cases i with
    | busInit | irqEntry | irqTokdne | route | routeEp0 | ep0Handle => simp
    | irqReset => exact ⟨by simp, absurd (configurationKept (.next rfl))⟩
    | tokIn k | ep0In k => exact ⟨by simp, absurd (configurationKept (.next (ep0In_configuration s)))⟩
    | reqSetConfiguration => exact ⟨absurd (addrKept (keeps_addr_setConfiguration s)), by simp⟩
    | reqDispatch => exact ⟨absurd (addrKept (keeps_addr_dispatchRequest s)), by simp⟩
    | tokSetup k =>
      exact ⟨absurd (addrKept ((keeps_addr_ep0Setup s k).andThen fun _ => .next rfl)), by simp⟩
    | ep0Setup k => exact ⟨absurd (addrKept (keeps_addr_ep0Setup s k)), by simp⟩
    | _ => simp [setsIdentity] at hi

end Sys2Proof.Machine
end

section
/-! The canonical form of memory is an invariant of every step (spec/20_memory.md R70, R73). -/

namespace Sys2Proof.Machine

/-- Memory is written by stores of bytes alone. -/
theorem Move.mem_cases {s t : State} (h : Move s t) : t.mem = s.mem ∨ ∃ a bs, t.mem = memWrite s.mem a bs := by
  cases h with
  | mem a bs => exact .inr ⟨a, bs, rfl⟩
  | _ => exact .inl rfl

theorem Move.keeps_memCanonical (s t : State) (h : Move s t) (hs : s.memCanonical) : t.memCanonical := by
  unfold State.memCanonical at hs ⊢
  rcases h.mem_cases with hsame | ⟨a, bs, hstore⟩
  · rw [hsame]; exact hs
  · rw [hstore]; exact memWrite_wf a bs hs

/-- Settles O11: a step is a chain of moves, of which only a store of bytes writes memory, byte by byte in the
canonical form; an armed word written to a slot is in the table, not in memory. -/
theorem stepKeepsMemoryCanonical : Obligations.StepKeepsMemoryCanonical := fun _ _ hs h =>
  step_keeps Move.keeps_memCanonical (fun _ _ _ _ _ _ hu => hu) hs h

end Sys2Proof.Machine
end

section
/-! Encoding and decoding of trace lines (spec/30_encoding.md R117 to R119): for each operand and each reader the
bytes it reads, said once as an equivalence; from these the two directions. -/

namespace Sys2Proof

/-! ## Fields and their bytes -/

@[simp] theorem ofBytes16_toBytes16 (v : BitVec 16) : ofBytes16 (v.extractLsb' 0 8) (v.extractLsb' 8 8) = v := by
  rw [ofBytes16, BitVec.extractLsb'_append_extractLsb'_eq_extractLsb' (by decide)]
  exact BitVec.extractLsb'_eq_self

@[simp] theorem ofBytes32_toBytes32 (v : Word) :
    ofBytes32 (v.extractLsb' 0 8) (v.extractLsb' 8 8) (v.extractLsb' 16 8) (v.extractLsb' 24 8) = v := by
  rw [ofBytes32, BitVec.extractLsb'_append_extractLsb'_eq_extractLsb' (by decide),
    BitVec.extractLsb'_append_extractLsb'_eq_extractLsb' (by decide),
    BitVec.extractLsb'_append_extractLsb'_eq_extractLsb' (by decide)]
  exact BitVec.extractLsb'_eq_self

@[simp] theorem ofBytes16_low (lo hi : Byte) : (ofBytes16 lo hi).extractLsb' 0 8 = lo :=
  BitVec.extractLsb'_append_eq_right

@[simp] theorem ofBytes16_high (lo hi : Byte) : (ofBytes16 lo hi).extractLsb' 8 8 = hi :=
  BitVec.extractLsb'_append_eq_left

@[simp] theorem toBytes16_ofBytes16 (lo hi : Byte) : toBytes16 (ofBytes16 lo hi) = [lo, hi] := by
  simp [toBytes16]

@[simp] theorem toBytes32_ofBytes32 (b0 b1 b2 b3 : Byte) :
    toBytes32 (ofBytes32 b0 b1 b2 b3) = [b0, b1, b2, b3] := by
  simp only [toBytes32, List.cons.injEq, and_true]
  refine ⟨?_, ?_, ?_, ?_⟩ <;> grind [ofBytes32]

@[simp] theorem Dir.bit_ofBool (v : Bool) : (Dir.ofBool v).bit = BitVec.ofBool v := by cases v <;> rfl
@[simp] theorem Bank.bit_ofBool (v : Bool) : (Bank.ofBool v).bit = BitVec.ofBool v := by cases v <;> rfl
@[simp] theorem Toggle.bit_ofBool (v : Bool) : (Toggle.ofBool v).bit = BitVec.ofBool v := by cases v <;> rfl

theorem Dir.ofBool_surjective : Function.Surjective Dir.ofBool
  | .rx => ⟨false, rfl⟩
  | .tx => ⟨true, rfl⟩

theorem Bank.ofBool_surjective : Function.Surjective Bank.ofBool
  | .even => ⟨false, rfl⟩
  | .odd => ⟨true, rfl⟩

theorem Toggle.ofBool_surjective : Function.Surjective Toggle.ofBool
  | .data0 => ⟨false, rfl⟩
  | .data1 => ⟨true, rfl⟩

/-! ## Operands -/

theorem except_map_eq_ok {ε α β : Type} {r : Except ε α} {f : α → β} {b : β} :
    r.map f = .ok b ↔ ∃ a, r = .ok a ∧ f a = b := by
  cases r <;> simp [Except.map]

theorem except_bind_eq_ok {ε α β : Type} {r : Except ε α} {f : α → Except ε β} {b : β} :
    r.bind f = .ok b ↔ ∃ a, r = .ok a ∧ f a = .ok b := by
  cases r <;> simp [Except.bind]

/-- A one-bit operand is the byte of its bit, no byte above 1 (spec/30_encoding.md R119 (g); log 9). -/
theorem bitOperand_eq_ok {b : Byte} {v : Bool} : bitOperand b = .ok v ↔ b = bitByte (BitVec.ofBool v) := by
  have hfalse : bitByte (BitVec.ofBool false) = 0 := rfl
  have htrue : bitByte (BitVec.ofBool true) = 1 := rfl
  unfold bitOperand
  split_ifs with h0 h1 <;> cases v <;> simp_all

/-- A count operand is its ten bits in two bytes, the six bits above them zero (spec/30_encoding.md R102; log 9). -/
theorem countOperand_eq_ok {lo hi : Byte} {n : BitVec 10} :
    countOperand lo hi = .ok n ↔ ofBytes16 lo hi = n.setWidth 16 := by
  have hn := n.isLt
  unfold countOperand
  split
  · simp; bv_omega
  · simp; bv_omega

theorem takeBytes_eq_ok {n : Nat} {bs : List Byte} {p : List Byte × List Byte} :
    takeBytes n bs = .ok p ↔ p.1.length = n ∧ bs = p.1 ++ p.2 := by
  obtain ⟨xs, ys⟩ := p
  unfold takeBytes
  split
  · simp
    rintro rfl rfl
    simp at *
  · simp
    constructor
    · rintro ⟨rfl, rfl⟩; simp; omega
    · rintro ⟨rfl, rfl⟩; simp

@[simp] theorem bitOperand_bitByte (v : Bool) : bitOperand (bitByte (BitVec.ofBool v)) = .ok v :=
  bitOperand_eq_ok.mpr rfl

@[simp] theorem countOperand_toBytes16 (n : BitVec 10) :
    countOperand ((n.setWidth 16).extractLsb' 0 8) ((n.setWidth 16).extractLsb' 8 8) = .ok n :=
  countOperand_eq_ok.mpr (ofBytes16_toBytes16 _)

@[simp] theorem takeBytes_append (xs ys : List Byte) : takeBytes xs.length (xs ++ ys) = .ok (xs, ys) :=
  takeBytes_eq_ok.mpr ⟨rfl, rfl⟩

theorem countBytes_of_countOperand {lo hi : Byte} {n : BitVec 10} (h : countOperand lo hi = .ok n) :
    countBytes n = [lo, hi] := by
  rw [countBytes, ← countOperand_eq_ok.mp h, toBytes16_ofBytes16]

/-! ## Readers -/

/-- The reader `r` reads the operand bytes `ops a` as the instruction `k a`, and nothing else. -/
def Reads {α : Type} (ops : α → List Byte) (k : α → Instr)
    (r : List Byte → Except DecodeError (Instr × List Byte)) : Prop :=
  ∀ bs i rest, r bs = .ok (i, rest) ↔ ∃ a, i = k a ∧ bs = ops a ++ rest

theorem reads_nothing (i : Instr) : Reads (fun _ : Unit => []) (fun _ => i) fun bs => .ok (i, bs) := by
  intro bs j rest
  simp [eq_comm]

theorem reads_readEp (k : Byte → Instr) : Reads (fun ep => [ep]) k (readEp k) := by
  intro bs i rest
  cases bs <;> simp [readEp, eq_comm]

theorem reads_readPkt (k : BitVec 16 → Instr) : Reads toBytes16 k (readPkt k) := by
  intro bs i rest
  constructor
  · intro h
    unfold readPkt at h
    split at h
    · cases h
      exact ⟨_, rfl, by simp⟩
    · cases h
  · rintro ⟨p, rfl, rfl⟩
    simp [readPkt, toBytes16]

theorem reads_readEpPkt (k : Byte → BitVec 16 → Instr) :
    Reads (fun a : Byte × BitVec 16 => a.1 :: toBytes16 a.2) (fun a => k a.1 a.2) (readEpPkt k) := by
  intro bs i rest
  constructor
  · intro h
    unfold readEpPkt at h
    split at h
    · next ep p0 p1 bs =>
      cases h
      exact ⟨(ep, ofBytes16 p0 p1), rfl, by simp⟩
    · cases h
  · rintro ⟨⟨ep, p⟩, rfl, rfl⟩
    simp [readEpPkt, toBytes16]

theorem reads_readWord (k : Word → Instr) : Reads toBytes32 k (readWord k) := by
  intro bs i rest
  constructor
  · intro h
    unfold readWord at h
    split at h
    · cases h
      exact ⟨_, rfl, by simp⟩
    · cases h
  · rintro ⟨a, rfl, rfl⟩
    simp [readWord, toBytes32]

theorem reads_readAddrCount (k : Word → BitVec 10 → Instr) :
    Reads (fun a : Word × BitVec 10 => toBytes32 a.1 ++ countBytes a.2) (fun a => k a.1 a.2) (readAddrCount k) := by
  intro bs i rest
  constructor
  · intro h
    unfold readAddrCount at h
    split at h
    · next a0 a1 a2 a3 n0 n1 bs =>
      obtain ⟨n, hn, h⟩ := except_map_eq_ok.mp h
      cases h
      exact ⟨(ofBytes32 a0 a1 a2 a3, n), rfl, by simp [countBytes_of_countOperand hn]⟩
    · cases h
  · rintro ⟨⟨a, n⟩, rfl, rfl⟩
    simp [readAddrCount, toBytes32, countBytes, toBytes16, Except.map]

theorem reads_readEpAddrCount (k : Byte → Word → BitVec 10 → Instr) :
    Reads (fun a : Byte × Word × BitVec 10 => a.1 :: (toBytes32 a.2.1 ++ countBytes a.2.2))
      (fun a => k a.1 a.2.1 a.2.2) (readEpAddrCount k) := by
  intro bs i rest
  constructor
  · intro h
    unfold readEpAddrCount at h
    split at h
    · next ep a0 a1 a2 a3 n0 n1 bs =>
      obtain ⟨n, hn, h⟩ := except_map_eq_ok.mp h
      cases h
      exact ⟨(ep, ofBytes32 a0 a1 a2 a3, n), rfl, by simp [countBytes_of_countOperand hn]⟩
    · cases h
  · rintro ⟨⟨ep, a, n⟩, rfl, rfl⟩
    simp [readEpAddrCount, toBytes32, countBytes, toBytes16, Except.map]

theorem reads_readEpDir (k : Byte → Dir → Instr) :
    Reads (fun a : Byte × Dir => [a.1, bitByte a.2.bit]) (fun a => k a.1 a.2) (readEpDir k) := by
  intro bs i rest
  constructor
  · intro h
    unfold readEpDir at h
    split at h
    · next ep _ bs =>
      obtain ⟨d, hd, h⟩ := except_map_eq_ok.mp h
      cases h
      exact ⟨(ep, .ofBool d), rfl, by simp [bitOperand_eq_ok.mp hd]⟩
    · cases h
  · rintro ⟨⟨ep, d⟩, rfl, rfl⟩
    obtain ⟨d, rfl⟩ := Dir.ofBool_surjective d
    simp [readEpDir, Except.map]

theorem reads_readEpDirBank (k : Byte → Dir → Bank → Instr) :
    Reads (fun a : Byte × Dir × Bank => [a.1, bitByte a.2.1.bit, bitByte a.2.2.bit])
      (fun a => k a.1 a.2.1 a.2.2) (readEpDirBank k) := by
  intro bs i rest
  constructor
  · intro h
    unfold readEpDirBank at h
    split at h
    · next ep _ _ bs =>
      obtain ⟨d, hd, h⟩ := except_bind_eq_ok.mp h
      obtain ⟨b, hb, h⟩ := except_map_eq_ok.mp h
      cases h
      exact ⟨(ep, .ofBool d, .ofBool b), rfl, by simp [bitOperand_eq_ok.mp hd, bitOperand_eq_ok.mp hb]⟩
    · cases h
  · rintro ⟨⟨ep, d, b⟩, rfl, rfl⟩
    obtain ⟨d, rfl⟩ := Dir.ofBool_surjective d
    obtain ⟨b, rfl⟩ := Bank.ofBool_surjective b
    simp [readEpDirBank, Except.map, Except.bind]

/-- The operands of BDT.WRITE: endpoint, direction, bank, count, toggle, address. -/
abbrev WriteOperands := Byte × Dir × Bank × BitVec 10 × Toggle × Word

theorem reads_readBdtWrite :
    Reads (fun (ep, d, b, n, t, a) =>
        ep :: bitByte d.bit :: bitByte b.bit :: (countBytes n ++ bitByte t.bit :: toBytes32 a))
      (fun ((ep, d, b, n, t, a) : WriteOperands) => .bdtWrite ep d b n t a) readBdtWrite := by
  intro bs i rest
  constructor
  · intro h
    unfold readBdtWrite at h
    split at h
    · next ep _ _ n0 n1 _ a0 a1 a2 a3 bs =>
      obtain ⟨d, hd, h⟩ := except_bind_eq_ok.mp h
      obtain ⟨b, hb, h⟩ := except_bind_eq_ok.mp h
      obtain ⟨n, hn, h⟩ := except_bind_eq_ok.mp h
      obtain ⟨t, ht, h⟩ := except_map_eq_ok.mp h
      cases h
      refine ⟨(ep, .ofBool d, .ofBool b, n, .ofBool t, ofBytes32 a0 a1 a2 a3), rfl, ?_⟩
      simp [bitOperand_eq_ok.mp hd, bitOperand_eq_ok.mp hb, countBytes_of_countOperand hn, bitOperand_eq_ok.mp ht]
    · cases h
  · rintro ⟨⟨ep, d, b, n, t, a⟩, rfl, rfl⟩
    obtain ⟨d, rfl⟩ := Dir.ofBool_surjective d
    obtain ⟨b, rfl⟩ := Bank.ofBool_surjective b
    obtain ⟨t, rfl⟩ := Toggle.ofBool_surjective t
    simp [readBdtWrite, toBytes32, countBytes, toBytes16, Except.map, Except.bind]

/-- LINK.SETUP carries exactly 8 bytes (spec/30_encoding.md R118). -/
theorem reads_linkSetup :
    Reads (fun data : { l : List Byte // l.length = 8 } => data.1) (fun data => .linkSetup data.1)
      fun bs => (takeBytes 8 bs).map fun p => (.linkSetup p.1, p.2) := by
  intro bs i rest
  constructor
  · intro h
    obtain ⟨p, hp, h⟩ := except_map_eq_ok.mp h
    cases h
    obtain ⟨hlen, hbs⟩ := takeBytes_eq_ok.mp hp
    exact ⟨⟨p.1, hlen⟩, rfl, hbs⟩
  · rintro ⟨⟨data, hlen⟩, rfl, rfl⟩
    exact except_map_eq_ok.mpr ⟨(data, rest), takeBytes_eq_ok.mpr ⟨hlen, rfl⟩, rfl⟩

/-- The length of a payload of at most 1023 bytes is the same number in a count's ten bits. -/
theorem setWidth_ofNat_length {data : List Byte} (h : data.length ≤ 1023) :
    (BitVec.ofNat 10 data.length).setWidth 16 = BitVec.ofNat 16 data.length := by
  apply BitVec.eq_of_toNat_eq
  simp
  omega

/-- The operands of LINK.OUT: endpoint, toggle, a payload of at most 1023 bytes (spec/30_encoding.md R118). -/
abbrev OutOperands := Byte × Toggle × { l : List Byte // l.length ≤ 1023 }

theorem reads_readLinkOut :
    Reads (fun (ep, t, data) => ep :: bitByte t.bit :: (toBytes16 (BitVec.ofNat 16 data.1.length) ++ data.1))
      (fun ((ep, t, data) : OutOperands) => .linkOut ep t data.1) readLinkOut := by
  intro bs i rest
  constructor
  · intro h
    unfold readLinkOut at h
    split at h
    · next ep _ n0 n1 bs =>
      obtain ⟨t, ht, h⟩ := except_bind_eq_ok.mp h
      obtain ⟨n, hn, h⟩ := except_bind_eq_ok.mp h
      obtain ⟨p, hp, h⟩ := except_map_eq_ok.mp h
      cases h
      obtain ⟨hlen, hbs⟩ := takeBytes_eq_ok.mp hp
      have hle : p.1.length ≤ 1023 := by have := n.isLt; omega
      refine ⟨(ep, .ofBool t, ⟨p.1, hle⟩), rfl, ?_⟩
      have hcount : toBytes16 (BitVec.ofNat 16 p.1.length) = [n0, n1] := by
        rw [← setWidth_ofNat_length hle, hlen, BitVec.ofNat_toNat, BitVec.setWidth_eq]
        exact countBytes_of_countOperand hn
      simp [bitOperand_eq_ok.mp ht, hcount, hbs]
    · cases h
  · rintro ⟨⟨ep, t, data, hle⟩, rfl, rfl⟩
    obtain ⟨t, rfl⟩ := Toggle.ofBool_surjective t
    have hlen : data.length % 1024 = data.length := by omega
    simp [readLinkOut, toBytes16, Except.map, Except.bind, ← setWidth_ofNat_length hle, hlen]

/-! ## Lines -/

/-- Every answer is a well-formed instruction whose encoding, before the bytes left over, is `line`. -/
def Spells (c : Config) (line : List Byte) (r : Except DecodeError (Instr × List Byte)) : Prop :=
  ∀ i rest, r = .ok (i, rest) → WellFormed c i = true ∧ (encode i).2 ++ rest = line

variable {c : Config} {line bs : List Byte} {code : Byte}

theorem Spells.error (e : DecodeError) : Spells c line (.error e) := fun _ _ h => by cases h

/-- A branch of the decoder on a code may use the code. -/
theorem Spells.ite {p : Prop} [Decidable p] {a b : Except DecodeError (Instr × List Byte)}
    (ha : p → Spells c line a) (hb : Spells c line b) : Spells c line (if p then a else b) := by
  split
  · exact ha ‹_›
  · exact hb

theorem Reads.spells {α : Type} {ops : α → List Byte} {k : α → Instr}
    {r : List Byte → Except DecodeError (Instr × List Byte)} (hr : Reads ops k r)
    (hk : ∀ a, WellFormed c (k a) = true ∧ (encode (k a)).2 = code :: ops a) : Spells c (code :: bs) (r bs) := by
  intro i rest h
  obtain ⟨a, rfl, rfl⟩ := (hr _ _ _).mp h
  obtain ⟨hwf, henc⟩ := hk a
  exact ⟨hwf, by rw [henc]; rfl⟩

theorem Reads.ite {α : Type} {ops : α → List Byte} {k : α → Instr} {key : Byte}
    {r : List Byte → Except DecodeError (Instr × List Byte)} {b : Except DecodeError (Instr × List Byte)}
    (hr : Reads ops k r)
    (hk : ∀ a, WellFormed c (k a) = true ∧ (encode (k a)).2 = key :: ops a)
    (hb : Spells c (code :: bs) b) : Spells c (code :: bs) (if code = key then r bs else b) :=
  .ite (fun h => h ▸ hr.spells hk) hb

theorem decodeTrace_alloc (hs : c.allocStrategy = .sharedBitmap) (bs : List Byte) :
    decodeTrace c (0x10 :: bs) = readEp .alloc bs := by simp [decodeTrace, hs]

theorem decodeTrace_allocSeg (hs : c.allocStrategy = .segregated) (bs : List Byte) :
    decodeTrace c (0x10 :: bs) = readEp .allocSeg bs := by simp [decodeTrace, hs]

/-- Code 0x10 is the allocation of the build's strategy (spec/30_encoding.md R117). -/
theorem spells_allocation (c : Config) (bs : List Byte) : Spells c (0x10 :: bs) (decodeTrace c (0x10 :: bs)) := by
  cases hs : c.allocStrategy with
  | sharedBitmap =>
    rw [decodeTrace_alloc hs]
    exact (reads_readEp .alloc).spells fun _ => ⟨decide_eq_true hs, rfl⟩
  | segregated =>
    rw [decodeTrace_allocSeg hs]
    exact (reads_readEp .allocSeg).spells fun _ => ⟨decide_eq_true hs, rfl⟩

/-- What a trace decodes to is well formed, and is spelled by the bytes read. -/
theorem decodeTrace_spells (c : Config) (line : List Byte) : Spells c line (decodeTrace c line) := by
  cases line with
  | nil => exact .error _
  | cons code bs =>
    exact
      (reads_nothing .busInit).ite (fun _ => ⟨rfl, rfl⟩) <|
      (reads_nothing .irqEntry).ite (fun _ => ⟨rfl, rfl⟩) <|
      .ite (by rintro rfl; exact spells_allocation c bs) <|
      (reads_readPkt .release).ite (fun _ => ⟨rfl, rfl⟩) <|
      (reads_readEpPkt .txSubmit).ite (fun _ => ⟨rfl, rfl⟩) <|
      (reads_readEpAddrCount .isoSubmit).ite (fun _ => ⟨rfl, rfl⟩) <|
      (reads_readEp .rxDequeue).ite (fun _ => ⟨rfl, rfl⟩) <|
      (reads_readEp .rxBytes).ite (fun _ => ⟨rfl, rfl⟩) <|
      (reads_readEp .txPkts).ite (fun _ => ⟨rfl, rfl⟩) <|
      (reads_readEp .rxPkts).ite (fun _ => ⟨rfl, rfl⟩) <|
      (reads_nothing .csEnter).ite (fun _ => ⟨rfl, rfl⟩) <|
      (reads_nothing .csExit).ite (fun _ => ⟨rfl, rfl⟩) <|
      (reads_readAddrCount .ep0Transmit).ite (fun _ => ⟨rfl, rfl⟩) <|
      (reads_readWord .setRebootTimer).ite (fun _ => ⟨rfl, rfl⟩) <|
      reads_readBdtWrite.ite (fun _ => ⟨rfl, rfl⟩) <|
      (reads_readEpDirBank .bdtReadc).ite (fun _ => ⟨rfl, rfl⟩) <|
      reads_linkSetup.ite (fun data => ⟨decide_eq_true data.2, rfl⟩) <|
      reads_readLinkOut.ite (fun a => ⟨decide_eq_true a.2.2.2, rfl⟩) <|
      (reads_readEp .linkIn).ite (fun _ => ⟨rfl, rfl⟩) <|
      (reads_nothing .linkSof).ite (fun _ => ⟨rfl, rfl⟩) <|
      (reads_nothing .linkReset).ite (fun _ => ⟨rfl, rfl⟩) <|
      (reads_readEp .linkError).ite (fun _ => ⟨rfl, rfl⟩) <|
      (reads_nothing .linkSleep).ite (fun _ => ⟨rfl, rfl⟩) <|
      (reads_readEp .linkStalled).ite (fun _ => ⟨rfl, rfl⟩) <|
      (reads_readEpDir .linkNak).ite (fun _ => ⟨rfl, rfl⟩) <| .error _

/-- A line decodes to the operation that takes up all its bytes. -/
theorem decodeLine_eq_ok {i : Instr} : decodeLine c line = .ok i ↔ decodeTrace c line = .ok (i, []) := by
  unfold decodeLine
  split <;> simp [*]

/-- A reader reads the operands of an instruction back from its line. -/
theorem Reads.decodeLine_eq {α : Type} {ops : α → List Byte} {k : α → Instr}
    {r : List Byte → Except DecodeError (Instr × List Byte)} (hr : Reads ops k r) (a : α)
    (h : decodeTrace c line = r (ops a)) : decodeLine c line = .ok (k a) :=
  decodeLine_eq_ok.mpr (h.trans ((hr _ _ _).mpr ⟨a, rfl, (List.append_nil _).symm⟩))

theorem decodeLine_encode {i : Instr} (hwf : WellFormed c i = true) (hi : IsTrace i) :
    decodeLine c (encode i).2 = .ok i := by
  cases i with
  | busInit | irqEntry | csEnter | csExit | linkSof | linkReset | linkSleep =>
    exact (reads_nothing _).decodeLine_eq () rfl
  | rxDequeue ep | rxBytes ep | txPkts ep | rxPkts ep | linkIn ep | linkError ep | linkStalled ep =>
    exact (reads_readEp _).decodeLine_eq ep rfl
  | alloc ep => exact (reads_readEp _).decodeLine_eq ep (decodeTrace_alloc (of_decide_eq_true hwf) _)
  | allocSeg ep => exact (reads_readEp _).decodeLine_eq ep (decodeTrace_allocSeg (of_decide_eq_true hwf) _)
  | release p => exact (reads_readPkt _).decodeLine_eq p rfl
  | txSubmit ep p => exact (reads_readEpPkt _).decodeLine_eq (ep, p) rfl
  | isoSubmit ep a n => exact (reads_readEpAddrCount _).decodeLine_eq (ep, a, n) rfl
  | ep0Transmit a n => exact (reads_readAddrCount _).decodeLine_eq (a, n) rfl
  | setRebootTimer n => exact (reads_readWord _).decodeLine_eq n rfl
  | bdtWrite ep d b n t a => exact reads_readBdtWrite.decodeLine_eq (ep, d, b, n, t, a) rfl
  | bdtReadc ep d b => exact (reads_readEpDirBank _).decodeLine_eq (ep, d, b) rfl
  | linkSetup data => exact reads_linkSetup.decodeLine_eq ⟨data, of_decide_eq_true hwf⟩ rfl
  | linkOut ep t data => exact reads_readLinkOut.decodeLine_eq (ep, t, ⟨data, of_decide_eq_true hwf⟩) rfl
  | linkNak ep d => exact (reads_readEpDir _).decodeLine_eq (ep, d) rfl
  | _ => simp [IsTrace, encode] at hi

/-- Settles O7: the decoder picks the reader by the code, and the reader reads the operands back. -/
theorem traceDecodesEncoding : Obligations.TraceDecodesEncoding := fun _ _ hwf hi => decodeLine_encode hwf hi

/-- Settles O8: each branch of the decoder answers with an instruction whose encoding is the code and the bytes its
reader took, and a line leaves no byte over. -/
theorem traceLineIsEncoding : Obligations.TraceLineIsEncoding := by
  intro c bytes i h
  obtain ⟨hwf, henc⟩ := decodeTrace_spells c bytes i [] (decodeLine_eq_ok.mp h)
  exact ⟨hwf, (List.append_nil _).symm.trans henc⟩

end Sys2Proof
end

section
/-! The words of the other formats read back (spec/30_encoding.md R102 to R106, R114, R115): one lemma a format. -/

namespace Sys2Proof

variable {c : Config} {i : Instr}

/-! ## Request codes -/

theorem classifyRequest_of_not_standard {b bm : Byte} (h : standardCodes.contains (b ++ bm) = false) :
    classifyRequest c b bm = if c.isGetDescriptor b bm then .getDescriptor else .other := by
  simp [standardCodes] at h
  simp [classifyRequest, h]

/-- No standard code has the `bRequest` of GET_DESCRIPTOR (spec/30_encoding.md R114). -/
theorem getDescriptor_not_standard (bm : Byte) : standardCodes.contains (0x06#8 ++ bm) = false := by
  have hcodes : ∀ code ∈ standardCodes, code.extractLsb' 8 8 ≠ 0x06 := by simp [standardCodes]
  by_contra hmem
  exact hcodes _ (by simpa using hmem) BitVec.extractLsb'_append_eq_left

theorem decodeReq_encode (hwf : WellFormed c i = true) (h : (encode i).1 = .req16) :
    decodeReq c (ofBytes16 ((encode i).2.getD 0 0) ((encode i).2.getD 1 0)) = i := by
  cases i with
  | reqGetStatusDev | reqGetStatusEp | reqClearFeatureEp | reqSetFeatureEp | reqSetAddress | reqGetConfiguration
  | reqSetConfiguration => rfl
  | reqGetDescriptor bm =>
    have hget : c.isGetDescriptor 0x06#8 bm = true := hwf
    have hrow : classifyRequest c 0x06#8 bm = .getDescriptor := by
      rw [classifyRequest_of_not_standard (getDescriptor_not_standard bm), if_pos hget]
    simp [encode, decodeReq, hrow]
  | reqOther b bm =>
    obtain ⟨hstandard, hget⟩ : standardCodes.contains (b ++ bm) = false ∧ c.isGetDescriptor b bm = false := by
      simpa [WellFormed] using hwf
    have hrow : classifyRequest c b bm = .other := by simp [classifyRequest_of_not_standard hstandard, hget]
    simp [encode, decodeReq, hrow]
  | _ => simp [encode] at h

/-! ## Conditions and token kinds -/

theorem decodeIst_encode (h : (encode i).1 = .istat8) : decodeIst ((encode i).2.getD 0 0) = some i := by
  cases i with
  | irqSof | irqTokdne | irqReset | irqStall | irqError | irqSleep | istResume | istAttach => rfl
  | _ => simp [encode] at h

theorem decodeTok_encode (hwf : WellFormed c i = true) (h : (encode i).1 = .tok4) :
    ∃ k, decodeTok k (((encode i).2.getD 0 0).setWidth 4) = i := by
  cases i with
  | tokSetup k | tokOut k | tokIn k => exact ⟨k, rfl⟩
  | tokOther k tok =>
    obtain ⟨-, hsetup, hout, hin⟩ : k.toNat < 4 ∧ tok ≠ 0xD#4 ∧ tok ≠ 0x1#4 ∧ tok ≠ 0x9#4 := by
      simpa [WellFormed] using hwf
    have hkind : classifyTok tok = .other := by simp [classifyTok, tokSETUP, tokOUT, tokIN, hsetup, hout, hin]
    exact ⟨k, by simp [encode, decodeTok, hkind]⟩
  | _ => simp [encode] at h

/-! ## Status bytes -/

theorem classifyStat_of_isEndpoint {st : Byte} (h : c.isEndpoint (statEp st).toNat = true) (n : BitVec 10) :
    classifyStat c n st =
      if st.getLsbD 3 then .txdone else if n = 0 then .rxdoneZero else .rxdoneData := by
  obtain ⟨hpos, hle⟩ : 1 ≤ (statEp st).toNat ∧ (statEp st).toNat ≤ c.nEp.toNat := by
    simpa [Config.isEndpoint] using h
  have hne : statEp st ≠ 0 := by rintro h0; simp [h0] at hpos
  unfold classifyStat
  rw [if_neg hne, if_neg (by omega)]
  unfold statDir
  cases st.getLsbD 3 <;> rfl

theorem decodeStat_encode (hwf : WellFormed c i = true) (h : (encode i).1 = .stat8) :
    ∃ n, decodeStat c n ((encode i).2.getD 0 0) = i := by
  cases i with
  | routeEp0 st =>
    have hep : statEp st = 0 := of_decide_eq_true hwf
    exact ⟨0, by simp [encode, decodeStat, classifyStat, hep]⟩
  | routeTxdone st =>
    obtain ⟨hep, htx⟩ := Bool.and_eq_true_iff.mp hwf
    have hkind : classifyStat c 0#10 st = .txdone := by rw [classifyStat_of_isEndpoint hep, htx]; rfl
    exact ⟨0, by simp [encode, decodeStat, hkind]⟩
  | routeRxdoneZero st =>
    obtain ⟨hep, hrx⟩ := Bool.and_eq_true_iff.mp hwf
    rw [Bool.not_eq_true'] at hrx
    have hkind : classifyStat c 0#10 st = .rxdoneZero := by rw [classifyStat_of_isEndpoint hep, hrx]; rfl
    exact ⟨0, by simp [encode, decodeStat, hkind]⟩
  | routeRxdoneData st =>
    obtain ⟨hep, hrx⟩ := Bool.and_eq_true_iff.mp hwf
    rw [Bool.not_eq_true'] at hrx
    have hkind : classifyStat c 1#10 st = .rxdoneData := by rw [classifyStat_of_isEndpoint hep, hrx]; rfl
    exact ⟨1, by simp [encode, decodeStat, hkind]⟩
  | routeIgnore st =>
    have hep : c.nEp.toNat < (statEp st).toNat := of_decide_eq_true hwf
    have hne : statEp st ≠ 0#4 := by rintro h0; simp [h0] at hep
    exact ⟨0, by simp [encode, decodeStat, classifyStat, hne, hep]⟩
  | _ => simp [encode] at h

/-! ## Descriptor words -/

section Fields

variable (n : BitVec 10) (t : Toggle) (f : BitVec 4)

@[simp] theorem descOwn_armedForm : descOwn (armedForm n t f) = true := by grind [descOwn, armedForm]
@[simp] theorem descCount_armedForm : descCount (armedForm n t f) = n := by grind [descCount, armedForm]
@[simp] theorem descFlags_armedForm : descFlags (armedForm n t f) = f := by grind [descFlags, armedForm]
@[simp] theorem descTog_armedForm : descTog (armedForm n t f) = t := by
  cases t <;> grind [descTog, armedForm, Toggle.bit, Toggle.ofBool]

@[simp] theorem descOwn_completedWord : descOwn (completedWord n t f) = false := by grind [descOwn, completedWord]
@[simp] theorem descCount_completedWord : descCount (completedWord n t f) = n := by grind [descCount, completedWord]
@[simp] theorem descTok_completedWord : descTok (completedWord n t f) = f := by grind [descTok, completedWord]
@[simp] theorem descTog_completedWord : descTog (completedWord n t f) = t := by
  cases t <;> grind [descTog, completedWord, Toggle.bit, Toggle.ofBool]

theorem completedWord_eq_unarmedWord : completedWord n t f = unarmedWord ↔ n = 0 ∧ t = .data0 ∧ f = 0 := by
  constructor
  · intro h
    refine ⟨?_, ?_, ?_⟩
    · rw [← descCount_completedWord n t f, h]; rfl
    · rw [← descTog_completedWord n t f, h]; rfl
    · rw [← descTok_completedWord n t f, h]; rfl
  · rintro ⟨rfl, rfl, rfl⟩
    rfl

end Fields

theorem ofBytes32_toBytes32_getD (w : Word) :
    ofBytes32 ((toBytes32 w).getD 0 0) ((toBytes32 w).getD 1 0) ((toBytes32 w).getD 2 0)
      ((toBytes32 w).getD 3 0) = w :=
  ofBytes32_toBytes32 w

theorem decodeDesc_encode (hwf : WellFormed c i = true) (h : (encode i).1 = .desc32) :
    ∃ k, decodeDesc k (ofBytes32 ((encode i).2.getD 0 0) ((encode i).2.getD 1 0)
      ((encode i).2.getD 2 0) ((encode i).2.getD 3 0)) = i := by
  cases i with
  | descArmed k n b =>
    have hform : classifyDesc (armedForm n b.tog b.flags) = .armed := by simp [classifyDesc]
    exact ⟨k, by simp only [encode, ofBytes32_toBytes32_getD]; simp [decodeDesc, hform]⟩
  | descCompleted k n t tok =>
    have hword : completedWord n t tok ≠ unarmedWord := by
      intro heq
      obtain ⟨rfl, rfl, rfl⟩ := (completedWord_eq_unarmedWord n t tok).mp heq
      simp [WellFormed] at hwf
    have hform : classifyDesc (completedWord n t tok) = .completed := by simp [classifyDesc, hword]
    exact ⟨k, by simp only [encode, ofBytes32_toBytes32_getD]; simp [decodeDesc, hform]⟩
  | descUnarmed k => exact ⟨k, by simp only [encode, ofBytes32_toBytes32_getD]; rfl⟩
  | _ => simp [encode] at h

/-- Settles O9: in each format the word's fields are those the encoder wrote, and select the row it was written
for. -/
theorem wordDecodesEncoding : Obligations.WordDecodesEncoding := fun _ _ hwf =>
  ⟨decodeReq_encode hwf, decodeIst_encode, decodeTok_encode hwf, decodeStat_encode hwf, decodeDesc_encode hwf⟩

/-- Settles O6: seventeen closed words, each decoded. -/
theorem specWordsDecode : Obligations.SpecWordsDecode := by
  unfold Obligations.SpecWordsDecode
  decide

end Sys2Proof
end

section
/-! The reserved bits of `ENDPT` and the flags `ISTAT` never stores (spec/30_encoding.md R107, spec/45_dispatcher.md
R314), and the step of a pending trace line (spec/30_encoding.md R122). -/

namespace Sys2Proof.Machine

theorem Move.keeps_reservedOk (s t : State) (h : Move s t) (hs : s.reservedOk) : t.reservedOk := by
  obtain ⟨hendpt, histat⟩ := hs
  cases h with
  | endpt e v =>
    refine ⟨fun f => ?_, histat⟩
    rw [State.endptReg_setEndptReg]
    split
    · rw [BitVec.and_assoc]
      exact BitVec.and_zero
    · exact hendpt f
  | clear v =>
    refine ⟨hendpt, ?_⟩
    change s.regs.istat &&& ~~~v &&& 0x68 = 0
    rw [BitVec.and_assoc, BitVec.and_comm (~~~v), ← BitVec.and_assoc, histat]
    exact BitVec.zero_and
  | raise v hv =>
    refine ⟨hendpt, ?_⟩
    change (s.regs.istat ||| v) &&& 0x68 = 0
    rw [BitVec.and_or_distrib_right, histat, hv]
    rfl
  | regs r he hi _ => exact ⟨fun e => by rw [State.endptReg_def]; exact he ▸ hendpt e, hi ▸ histat⟩
  | init =>
    exact ⟨fun e => by simp [State.endptReg_def, State.busInit, Regs.init], by simp [State.busInit, Regs.init]⟩
  | _ => exact ⟨hendpt, histat⟩

/-- Settles O15: writes of `ENDPT` are masked, the link raises none of the three flags, and every other write of
`ISTAT` clears. -/
theorem stepKeepsReservedBits : Obligations.StepKeepsReservedBits := fun _ _ hs h =>
  step_keeps Move.keeps_reservedOk (fun _ _ _ _ _ _ hu => hu) hs h

/-- The step of a pending line is that of the instruction it decodes to. -/
theorem step_line {s : State} {bytes : List Byte} {rest : List Input} {i : Instr}
    (htrace : s.env.trace = .line bytes :: rest) (hdec : decodeLine s.cfg bytes = .ok i) :
    step s = lineStep (agentOf bytes) i rest s := by
  simp only [step, agentStep, htrace, itemStep, hdec]

theorem step_rejected {s : State} {bytes : List Byte} {rest : List Input} {e : DecodeError}
    (htrace : s.env.trace = .line bytes :: rest) (hdec : decodeLine s.cfg bytes = .error e) :
    step s = .next (s.setTrace rest) := by
  simp only [step, agentStep, htrace, itemStep, hdec]

/-- A line's step, unless it is the foreground's while the handler runs (spec/60_exceptions.md R346). -/
theorem lineStep_exec {a : Agent} {s : State} (h : a ≠ .fg ∨ s.ctx.inIsr = false) (i : Instr) (rest : List Input) :
    lineStep a i rest s = exec i (s.setTrace rest) := by
  cases a with
  | fg =>
    have hfree : s.ctx.inIsr = false := h.resolve_left fun hne => hne rfl
    simp [lineStep, foreground, hfree]
  | isr => rfl
  | link => rfl

theorem lineStep_waits {s : State} (h : s.ctx.inIsr = true) (i : Instr) (rest : List Input) :
    lineStep .fg i rest s = s.isrStep := if_pos h

/-- Settles O1: of the pending lines only the foreground's waits, and only while the handler runs. -/
theorem stepRunsDecodedLine : Obligations.StepRunsDecodedLine := by
  intro s bytes rest htrace
  refine ⟨fun i hdec => ⟨fun hfree => ?_, ?_⟩, fun e hdec => step_rejected htrace hdec⟩
  · rw [step_line htrace hdec, lineStep_exec hfree]
  · rintro ⟨hfg, hisr⟩
    rw [step_line htrace hdec, hfg, lineStep_waits hisr]

end Sys2Proof.Machine
end

section
/-! The three descriptor forms are an invariant of every step (spec/40_bdt_link.md R143); the step of a pending
descriptor word and of an application's write (spec/60_exceptions.md R346). -/

namespace Sys2Proof.Machine

theorem IsRuleWord.isDescWord {d : Word} (h : IsRuleWord d) : IsDescWord d := by
  rcases h with hunarmed | ⟨n, t, harmed⟩ | hcompleted
  · exact .inl hunarmed
  · exact .inr (.inl ⟨n, t, 0b0010, harmed⟩)
  · exact .inr (.inr hcompleted)

/-- A move leaves a slot alone or leaves a word a rule writes in it. -/
theorem Move.slot_cases {s t : State} (h : Move s t) (k : SlotIx) :
    t.slot k = s.slot k ∨ IsRuleWord (t.slot k).desc := by
  cases h with
  | slot j v hv =>
    rw [State.slot_setSlot]
    split
    · exact .inr hv
    · exact .inl rfl
  | init =>
    right
    rw [State.slot_def, State.busInit, State.clearTable, Tab.get_fill]
    exact .unarmed
  | _ => exact .inl rfl

theorem Move.keeps_descForms (s t : State) (h : Move s t) (hs : s.descForms) : t.descForms := fun k =>
  (h.slot_cases k).elim (fun hsame => hsame ▸ hs k) IsRuleWord.isDescWord

theorem Move.keeps_ruleForms (s t : State) (h : Move s t) (hs : s.ruleForms) : t.ruleForms := fun k =>
  (h.slot_cases k).elim (fun hsame => hsame ▸ hs k) id

/-- An armed word written to a slot, whatever its flags, has one of the three forms. -/
theorem State.descForms.setSlot_armed {s : State} (hs : s.descForms) (k : SlotIx) (n : BitVec 10) (tog : Toggle)
    (f : BitVec 4) (a : Word) : (s.setSlot k ⟨armedForm n tog f, a⟩).descForms := by
  intro j
  rw [State.slot_setSlot]
  split
  · exact .inr (.inl ⟨n, tog, f, rfl⟩)
  · exact hs j

/-- Settles O12: of the moves only the write of a slot and bus initialisation write the table, both with a rule's
words; software's armed word keeps the three forms, and a rule's words where its flags are a rule's. -/
theorem stepKeepsDescriptorForms : Obligations.StepKeepsDescriptorForms :=
  ⟨fun _ _ hs h => step_keeps Move.keeps_descForms (fun _ k n tog f a hu => hu.setSlot_armed k n tog f a) hs h,
    fun _ _ hs hplain h => step_keeps_plain Move.keeps_ruleForms hplain hs h⟩

/-! ## Pending items other than lines -/

theorem agentOfWord_ne_fg {w : Word} : agentOfWord w ≠ .fg ↔ classifyDesc w = .completed := by
  unfold agentOfWord
  cases classifyDesc w <;> simp

theorem step_descWord {s : State} {k : SlotIx} {w : Word} {rest : List Input}
    (htrace : s.env.trace = .descWord k w :: rest) :
    step s = lineStep (agentOfWord w) (decodeDesc k w) rest s := by
  simp only [step, agentStep, htrace, itemStep]

theorem step_app {s : State} {a : AppAct} {rest : List Input} (htrace : s.env.trace = .app a :: rest) :
    step s = foreground s (appStep a (s.setTrace rest)) := by
  simp only [step, agentStep, htrace, itemStep]

theorem step_idle {s : State} (htrace : s.env.trace = []) : step s = exec .irqEntry s := by
  simp only [step, agentStep, htrace, exec]

theorem foreground_free {s : State} (h : s.ctx.inIsr = false) (own : Out) : foreground s own = own := by
  simp [foreground, h]

theorem foreground_waits {s : State} (h : s.ctx.inIsr = true) (own : Out) : foreground s own = s.isrStep := if_pos h

/-- Settles O2: the completed word is the link's, every other word and the application's write the foreground's, which
waits while the handler runs. -/
theorem stepRunsDescriptorWord : Obligations.StepRunsDescriptorWord := by
  refine ⟨fun s k w rest htrace => ⟨fun h => ?_, fun hform hisr => ?_⟩, fun s a rest htrace => ⟨fun hfree => ?_,
    fun hisr => ?_⟩, fun s htrace => step_idle htrace⟩
  · rw [step_descWord htrace, lineStep_exec (h.imp_left agentOfWord_ne_fg.mpr)]
  · have hfg : agentOfWord w = .fg := not_not.mp fun hne => hform (agentOfWord_ne_fg.mp hne)
    rw [step_descWord htrace, hfg, lineStep_waits hisr]
  · rw [step_app htrace, foreground_free hfree]
  · rw [step_app htrace, foreground_waits hisr]

end Sys2Proof.Machine
end

section
/-! The table from outside (spec/40_bdt_link.md R140 to R142): when the block holds a slot, and what a caller's write of
a slot does and is refused for. -/

namespace Sys2Proof.Machine

theorem slotBusy_eq_true {s : State} {k : SlotIx} :
    s.slotBusy k = true ↔ descOwn (s.slot k).desc = true ∨ ∃ st ∈ s.regs.statFifo, statSlot st = k := by
  simp [State.slotBusy]

theorem slotBusy_eq_false {s : State} {k : SlotIx} :
    s.slotBusy k = false ↔ descOwn (s.slot k).desc = false ∧ ∀ st ∈ s.regs.statFifo, statSlot st ≠ k := by
  simp [State.slotBusy]

@[simp] theorem descCount_armedWord (n : BitVec 10) (t : Toggle) : descCount (armedWord n t) = n :=
  descCount_armedForm ..

theorem countRefusal_eq (d : Dir) :
    countRefusal d = if d = .rx then .countAboveCapacity else .pastBuffer := by cases d <;> rfl

theorem armOutside_busy {s : State} {k : SlotIx} (h : s.slotBusy k = true) (v : Slot) :
    s.armOutside k v = .refused .slotOwned := if_pos h

/-- A caller's write of a slot the block does not hold: the slot written, or the refusal of its bounds
(spec/20_memory.md R70, R83, spec/30_encoding.md R119 (h)). -/
theorem armOutside_free {s : State} {k : SlotIx} {w a : Word} {n : BitVec 10} (hn : descCount w = n)
    (hfree : s.slotBusy k = false) :
    (s.fitsBuffer a n.toNat = true → (slotDir k = .rx → s.storeApart a n.toNat = true) →
      s.armOutside k ⟨w, a⟩ = .next (s.setSlot k ⟨w, a⟩)) ∧
    (s.fitsBuffer a n.toNat = false → s.armOutside k ⟨w, a⟩ =
      .refused (if slotDir k = .rx then .countAboveCapacity else .pastBuffer)) ∧
    (slotDir k = .rx → s.fitsBuffer a n.toNat = true → s.storeApart a n.toNat = false →
      s.armOutside k ⟨w, a⟩ = .refused .storeReadOnly) := by
  subst hn
  refine ⟨fun hfits hstore => ?_, fun hfits => ?_, fun hrx hfits hstore => ?_⟩
  · have huse : s.linkMayUse k a (descCount w) = true := by
      cases hdir : slotDir k <;> simp [State.linkMayUse, hdir, hstore]
    exact armOutside_eq_next.mpr ⟨hfree, hfits, huse, rfl⟩
  · simp [State.armOutside, hfree, hfits, countRefusal_eq]
  · simp [State.armOutside, hfree, hfits, State.linkMayUse, hrx, hstore]

/-- A slot of the table is not beyond it (spec/40_bdt_link.md R140). -/
theorem exec_bdtWrite {s : State} {ep : Byte} (hep : ep.toNat ≤ s.cfg.nEp.toNat) (d : Dir) (b : Bank) (n : BitVec 10)
    (tog : Toggle) (a : Word) :
    exec (.bdtWrite ep d b n tog a) s = s.armOutside (slotOf (ep.setWidth 4) d b) ⟨armedWord n tog, a⟩ :=
  if_neg (Nat.not_lt.mpr hep)

/-- Settles O36: BDT.WRITE inside the table is a caller's write of the slot. -/
theorem bdtWriteArmsSlot : Obligations.BdtWriteArmsSlot := by
  rintro s ep d b n tog a k rfl
  refine ⟨fun hout => if_pos hout, fun hep hbusy => ?_, fun hep hown hfifo => ?_⟩
  · rw [exec_bdtWrite hep, armOutside_busy (slotBusy_eq_true.mpr hbusy)]
  · have hbounds := armOutside_free (a := a) (descCount_armedWord n tog) (slotBusy_eq_false.mpr ⟨hown, hfifo⟩)
    rw [slotDir_slotOf] at hbounds
    rw [exec_bdtWrite hep]
    exact hbounds

/-- Settles O37: BDT.READC writes its result alone, BDT.CLEAR the table alone. -/
theorem bdtReadAndClear : Obligations.BdtReadAndClear := by
  refine ⟨fun s ep d b hep => ?_, fun s => ⟨s.clearTable, rfl, fun k => Tab.get_fill _ k, rfl, fun _ => rfl⟩⟩
  have hread : exec (.bdtReadc ep d b) s =
      if descOwn (s.slot (slotOf (ep.setWidth 4) d b)).desc then .refused .slotOwned
      else .next (s.setResult (.completion (s.countOf (slotOf (ep.setWidth 4) d b)).toNat
        (s.slot (slotOf (ep.setWidth 4) d b)).addr)) := if_neg (Nat.not_lt.mpr hep)
  rw [hread]
  refine ⟨fun hfree => ?_, fun hown => if_pos hown⟩
  rw [hfree]
  rfl

end Sys2Proof.Machine
end

section
/-! The link's tokens (spec/40_bdt_link.md R144 to R151): the gates as the statements say them, what a token does behind
them, and the state each completion leaves. -/

namespace Sys2Proof.Machine

variable {s : State} {ep : Byte} {d : Dir} {k : Out}

/-! ## The gates -/

theorem tokenClosed_iff : TokenClosed s ep ↔ (s.linkReady && s.linkEp ep) = false := by
  simp [TokenClosed, State.linkReady, State.linkEp, imp_iff_not_or, or_assoc]

theorem tokenOpen_iff : TokenOpen s ep ↔ ¬ TokenClosed s ep ∧ epcStall (s.endptReg (epOf ep)) = false := by
  rw [tokenClosed_iff, Bool.not_eq_false]
  simp [TokenOpen, State.linkReady, State.linkEp, epOf, and_assoc]

theorem linkStalls_eq_true {e : Ep} :
    s.linkStalls e = true ↔
      epcStall (s.endptReg e) = true ∧ (epcRxen (s.endptReg e) = true ∨ epcTxen (s.endptReg e) = true) := by
  simp [State.linkStalls]

theorem linkStalls_eq_false {e : Ep} :
    s.linkStalls e = false ↔
      epcStall (s.endptReg e) = false ∨ epcRxen (s.endptReg e) = false ∧ epcTxen (s.endptReg e) = false := by
  simp [State.linkStalls, imp_iff_not_or]

theorem dropsToggle_eq_true {e : Ep} {t : Toggle} :
    s.dropsToggle e t = true ↔
      s.cfg.rxToggleCheck = true ∧ epcHshk (s.endptReg e) = true ∧ descDts (s.slot (linkSlot s e .rx)).desc = true ∧
        t ≠ descTog (s.slot (linkSlot s e .rx)).desc := by
  simp [State.dropsToggle, State.tokenDesc, State.tokenSlot, linkSlot, and_assoc]

/-! ## A token behind its gates -/

theorem token_closed (h : TokenClosed s ep) : s.token ep d k = .next s := by
  simp [State.token, tokenClosed_iff.mp h]

theorem token_stalled (h : ¬ TokenClosed s ep) (hstall : s.linkStalls (epOf ep) = true) :
    s.token ep d k = .next s.answerStall := by
  rw [tokenClosed_iff, Bool.not_eq_false] at h
  simp [State.token, h, hstall]

/-- Where the link is open to a token, its direction's enable and the slot's descriptor decide. -/
theorem token_open (h : TokenOpen s ep) :
    s.token ep d k =
      if !(s.linkEnabled (epOf ep) d && descOwn (s.slot (linkSlot s (epOf ep) d)).desc) then .next s
      else if descStall (s.slot (linkSlot s (epOf ep) d)).desc then .next s.answerStall
      else k := by
  obtain ⟨hopen, hstall⟩ := tokenOpen_iff.mp h
  rw [tokenClosed_iff, Bool.not_eq_false] at hopen
  have hdesc : s.tokenDesc (epOf ep) d = (s.slot (linkSlot s (epOf ep) d)).desc := rfl
  rw [State.token, hopen, linkStalls_eq_false.mpr (.inl hstall), hdesc]
  cases s.linkEnabled (epOf ep) d <;> cases descOwn (s.slot (linkSlot s (epOf ep) d)).desc <;> rfl

theorem token_unarmed (h : TokenOpen s ep) (hslot : s.linkEnabled (epOf ep) d = false ∨
    descOwn (s.slot (linkSlot s (epOf ep) d)).desc = false) : s.token ep d k = .next s := by
  rw [token_open h]
  rcases hslot with hslot | hslot <;> simp [hslot]

/-- A token whose effect is nothing does nothing, unless the descriptor answers STALL. -/
theorem token_dropped (h : TokenOpen s ep) (hstall : descStall (s.slot (linkSlot s (epOf ep) d)).desc = false)
    (hk : k = .next s) : s.token ep d k = .next s := by
  rw [token_open h, hstall, hk]
  simp

theorem token_armed (h : TokenOpen s ep) (hen : s.linkEnabled (epOf ep) d = true)
    (hown : descOwn (s.slot (linkSlot s (epOf ep) d)).desc = true)
    (hstall : descStall (s.slot (linkSlot s (epOf ep) d)).desc = false) : s.token ep d k = k := by
  rw [token_open h, hen, hown, hstall]
  rfl

theorem linkStalled_idle (h : TokenClosed s ep ∨ s.linkStalls (epOf ep) = false) :
    exec (.linkStalled ep) s = .next s := by
  have hgate : (s.linkReady && s.linkEp ep && s.linkStalls (epOf ep)) = false := by
    rcases h with hclosed | hstall
    · rw [tokenClosed_iff.mp hclosed, Bool.false_and]
    · rw [hstall, Bool.and_false]
  rw [exec, execLinkStalled, hgate]
  rfl

theorem linkStalled_stalled (h : ¬ TokenClosed s ep) (hstall : s.linkStalls (epOf ep) = true) :
    exec (.linkStalled ep) s = .next s.answerStall := by
  rw [tokenClosed_iff, Bool.not_eq_false] at h
  rw [exec, execLinkStalled, h, hstall]
  rfl

/-! ## The statements about tokens and events -/

/-- Settles O42: the gates of R144 in order, each with the tokens it stops. -/
theorem tokensThatDoNotComplete : Obligations.TokensThatDoNotComplete := by
  refine ⟨fun s ep tog data h => ?_, fun s ep h => ?_, fun s ep tog data hopen hstall hen => ?_,
    fun s ep tog data h => ?_⟩
  · refine ⟨token_closed h, token_closed h, linkStalled_idle (.inl h), ?_⟩
    rintro rfl
    exact token_closed h
  · exact linkStalled_idle (.inr (linkStalls_eq_false.mpr h))
  · have hst : s.linkStalls (epOf ep) = true := linkStalls_eq_true.mpr ⟨hstall, hen⟩
    refine ⟨token_stalled hopen hst, token_stalled hopen hst, linkStalled_stalled hopen hst, ?_⟩
    rintro rfl
    exact token_stalled hopen hst
  · refine ⟨fun hslot => ⟨token_unarmed h hslot, ?_⟩, fun hslot => token_unarmed h hslot, fun hstall hdrop => ?_, ?_⟩
    · rintro rfl
      exact token_unarmed h hslot
    · refine token_dropped h hstall (if_pos ?_)
      rw [Bool.or_eq_true, decide_eq_true_eq]
      exact hdrop.imp_right dropsToggle_eq_true.mpr
    · rintro rfl hstall hdrop
      refine token_dropped h hstall (if_pos ?_)
      rw [Bool.or_eq_true, decide_eq_true_eq]
      exact hdrop

end Sys2Proof.Machine
end

section
/-! The link's completions (spec/40_bdt_link.md R146 to R149) and its flag events (R150, R152 to R155): what a store, a
completed descriptor and `complete` leave, said once, and each token's completion put together from them. -/

namespace Sys2Proof.Machine

variable {s : State} {a : Word} {bs : List Byte}

/-! ## Bytes -/

theorem Storable.span_le {n : Nat} (h : Storable s a n) : a.toNat + n ≤ 2 ^ 32 := h.1.1

theorem holdsBytes_store (h : s.memCanonical) (hspan : a.toNat + bs.length ≤ 2 ^ 32) :
    HoldsBytes (s.store a bs) a bs := by
  intro k hk
  have haddr : (a + BitVec.ofNat 32 k).toNat = a.toNat + k := by
    rw [BitVec.toNat_add, BitVec.toNat_ofNat]; omega
  rw [State.byte_store s a bs _ h hspan, haddr, if_pos (by omega), Nat.add_sub_cancel_left]

theorem sameBytesOutside_store (h : s.memCanonical) (hspan : a.toNat + bs.length ≤ 2 ^ 32) :
    SameBytesOutside a bs.length s (s.store a bs) := by
  intro b hb
  rw [State.byte_store s a bs b h hspan, if_neg (by omega)]

theorem length_memRead (m : List Host.Cell) (a : Word) (n : Nat) : (memRead m a n).length = n := by
  induction n generalizing a with
  | zero => rfl
  | succ n ih => rw [memRead, List.length_cons, ih]

theorem getD_memRead (m : List Host.Cell) (a : Word) {n k : Nat} (h : k < n) :
    (memRead m a n).getD k 0 = memGet m (a + BitVec.ofNat 32 k).toNat := by
  induction n generalizing a k with
  | zero => exact absurd h (Nat.not_lt_zero k)
  | succ n ih =>
    cases k with
    | zero => simp [memRead]
    | succ k =>
      have hnext : a + BitVec.ofNat 32 (k + 1) = a + 1 + BitVec.ofNat 32 k := by
        rw [BitVec.ofNat_add, BitVec.add_comm (BitVec.ofNat 32 k), ← BitVec.add_assoc]; rfl
      rw [memRead, List.getD_cons_succ, ih _ (Nat.lt_of_succ_lt_succ h), hnext]

theorem holdsBytes_memRead (s : State) (a : Word) (n : Nat) : HoldsBytes s a (memRead s.mem a n) := fun _ hk =>
  (getD_memRead s.mem a (hk.trans_eq (length_memRead _ _ _))).symm

theorem withReceive_readOnly {n : Nat} {k : Out} (h : s.storeApart a n = false) :
    s.withReceive a n k = .refused .storeReadOnly := if_neg (Bool.not_eq_true _ ▸ h)

/-! ## The completed slot and the status byte -/

/-- `ISTAT` reads the stored flags, but for `tokdne`, which is 1 exactly when `stat_fifo` is not empty
(spec/10_state.md R32). -/
theorem istatReg_getLsbD (s : State) {i : Nat} (hi : i < 8) :
    s.istatReg.getLsbD i = if i = 3 then !s.regs.statFifo.isEmpty else s.regs.istat.getLsbD i := by
  unfold State.istatReg
  cases s.regs.statFifo.isEmpty <;> interval_cases i <;> simp

theorem closeSlot_slot (s : State) (e : Ep) (d : Dir) (n : BitVec 10) (tok : BitVec 4) :
    (s.closeSlot e d n tok).slot (linkSlot s e d) =
      ⟨completedWord n (descTog (s.slot (linkSlot s e d)).desc) tok, (s.slot (linkSlot s e d)).addr⟩ :=
  Tab.get_set_self ..

theorem closeSlot_sameSlots (s : State) (e : Ep) (d : Dir) (n : BitVec 10) (tok : BitVec 4) :
    SameSlotsBut [linkSlot s e d] s (s.closeSlot e d n tok) := fun _ hk =>
  Tab.get_set_ne _ _ fun h => hk (List.mem_singleton.mpr h.symm)

theorem completed_complete (s : State) (e : Ep) (d : Dir) : Completed s (s.complete e d) e d := by
  obtain ⟨hfifo, hbank, hbanks, -⟩ := complete_spec s e d
  exact ⟨hfifo, by rw [istatReg_getLsbD _ (by decide), hfifo]; simp, hbank, hbanks⟩

/-! ## The statements about completions -/

/-- Settles O39: a data packet that fits and whose toggle is not dropped is stored, and its slot completed. -/
theorem linkOutCompletes : Obligations.LinkOutCompletes := by
  rintro s ep tog data e k hmem rfl rfl hopen hen hown hstall hlen htog
  have hkept : ¬ ((descCount (s.tokenDesc (epOf ep) .rx)).toNat < data.length ||
      s.dropsToggle (epOf ep) tog) = true := by
    rw [Bool.or_eq_true, decide_eq_true_eq, dropsToggle_eq_true]
    rintro (hlong | ⟨hcheck, hhshk, -, hne⟩)
    · exact Nat.not_lt.mpr hlen hlong
    · exact hne (htog hcheck hhshk)
  have hexec : exec (.linkOut ep tog data) s =
      s.withReceive (s.slot (linkSlot s (epOf ep) .rx)).addr data.length (.next (s.acceptOut (epOf ep) data)) :=
    (token_armed (d := .rx) hopen hen hown hstall).trans (if_neg hkept)
  rw [hexec]
  refine ⟨fun hstore => ?_, withReceive_readOnly⟩
  exact ⟨_, withReceive_eq_next.mpr ⟨hstore, rfl⟩, holdsBytes_store hmem hstore.span_le,
    sameBytesOutside_store hmem hstore.span_le, closeSlot_slot .., closeSlot_sameSlots _ _ _ _ _,
    completed_complete .., rfl⟩

/-- Settles O40: the 8 bytes are stored, the slot completed with its own toggle, whatever it is, and the link
suspended. -/
theorem linkSetupCompletes : Obligations.LinkSetupCompletes := by
  rintro s data k hmem rfl hlen hopen hen hctl hown hstall hcount hstore
  have hkept : ¬ (epcCtldis (s.endptReg 0) || (descCount (s.tokenDesc 0 .rx)).toNat < 8) = true := by
    rw [hctl, Bool.false_or, decide_eq_true_eq]
    exact Nat.not_lt.mpr hcount
  have hexec : exec (.linkSetup data) s =
      s.withReceive (s.slot (linkSlot s 0 .rx)).addr data.length (.next (s.acceptSetup data)) :=
    (token_armed (d := .rx) hopen hen hown hstall).trans (if_neg hkept)
  rw [← hlen] at hstore ⊢
  exact ⟨_, hexec.trans (withReceive_eq_next.mpr ⟨hstore, rfl⟩), holdsBytes_store hmem hstore.span_le,
    sameBytesOutside_store hmem hstore.span_le, closeSlot_slot .., closeSlot_sameSlots _ _ _ _ _, rfl,
    completed_complete .., rfl⟩

theorem exec_linkIn_armed {ep : Byte} (hopen : TokenOpen s ep) (hen : epcTxen (s.endptReg (epOf ep)) = true)
    (hown : descOwn (s.slot (linkSlot s (epOf ep) .tx)).desc = true)
    (hstall : descStall (s.slot (linkSlot s (epOf ep) .tx)).desc = false)
    (hreach : Reachable s.cfg (s.slot (linkSlot s (epOf ep) .tx)).addr
      (descCount (s.slot (linkSlot s (epOf ep) .tx)).desc).toNat) :
    exec (.linkIn ep) s = .next (s.sendIn (epOf ep)) :=
  (token_armed (d := .tx) hopen hen hown hstall).trans (withSpan_ok hreach.1 hreach.2)

/-- Settles O41: the bytes sent are those memory holds at the slot's address, as many as its count. -/
theorem linkInSends : Obligations.LinkInSends := by
  rintro s ep e k rfl rfl hopen hen hown hstall hreach
  exact ⟨_, _, exec_linkIn_armed hopen hen hown hstall hreach, rfl, length_memRead .., holdsBytes_memRead _ _ _,
    closeSlot_slot .., closeSlot_sameSlots _ _ _ _ _, completed_complete .., fun _ => rfl, rfl⟩

/-! ## Flags -/

/-- An error mask is latched, and flagged where `ERREN` enables one of the errors latched (spec/40_bdt_link.md R154). -/
theorem exec_linkError {m : Byte} (h : s.regs.ctlEnable = true) (hm : m ≠ 0) :
    exec (.linkError m) s = .next { s with
      regs := { s.regs with
        errStat := s.regs.errStat ||| m
        istat := if (s.regs.errStat ||| m) &&& s.regs.errEn = 0 then s.regs.istat
          else s.regs.istat ||| 0x02 } } := by
  have hgate : ¬ (!s.regs.ctlEnable || decide (m = 0)) = true := by rw [h, decide_eq_false hm]; decide
  rw [exec, execLinkError, if_neg hgate]
  by_cases hen : (s.regs.errStat ||| m) &&& s.regs.errEn = 0
  · rw [if_neg fun hne => bne_iff_ne.mp hne hen, if_pos hen]; rfl
  · rw [if_pos (bne_iff_ne.mpr hen), if_neg hen]; rfl

/-- Settles O43: each event is its flag under `CTL.enable`; a NAK is nothing. -/
theorem linkFlagEvents : Obligations.LinkFlagEvents := by
  refine ⟨fun s h => ?_, fun s m h => ?_, fun s ep d => rfl, fun s e d =>
    ⟨_, rfl, completed_complete s e d, rfl⟩⟩
  · refine ⟨?_, ?_, ?_, fun m hm => exec_linkError h hm⟩
    · exact congrArg Host.Outcome.next (if_pos h)
    · exact congrArg Host.Outcome.next (if_pos h)
    · exact congrArg Host.Outcome.next (if_pos h)
  · simp [exec, execLinkSof, execLinkReset, execLinkSleep, execLinkError, h]

end Sys2Proof.Machine
end

section
/-! The descriptor words as steps (spec/40_bdt_link.md R143, spec/30_encoding.md R102 to R104): software's two forms are
a caller's writes of the slot; the completed form is the link's completion that leaves it, or no step. -/

namespace Sys2Proof.Machine

variable {s : State} {k : SlotIx}

/-! ## Software's forms -/

theorem exec_descArmed (h : k.toNat < 4 * (s.cfg.nEp.toNat + 1)) (n : BitVec 10) (tog : Toggle) (f : BitVec 4) :
    exec (.descArmed k n ⟨tog, f⟩) s = s.armOutside k ⟨armedForm n tog f, (s.slot k).addr⟩ :=
  if_neg (Nat.not_le.mpr h)

theorem exec_descUnarmed (h : k.toNat < 4 * (s.cfg.nEp.toNat + 1)) :
    exec (.descUnarmed k) s = if s.slotBusy k then .refused .slotOwned else .next (s.setDesc k unarmedWord) :=
  if_neg (Nat.not_le.mpr h)

/-! ## The link's form -/

theorem classifyTok_eq_in {tok : BitVec 4} : classifyTok tok = .in_ ↔ tok = 0x9 := by
  revert tok
  decide

theorem classifyTok_eq_other {tok : BitVec 4} :
    classifyTok tok = .other ↔ tok ≠ 0xD ∧ tok ≠ 0x1 ∧ tok ≠ 0x9 := by
  revert tok
  decide

theorem exec_descCompleted {n : BitVec 10} {tog : Toggle} {tok : BitVec 4} {kind : TokKind}
    (hkind : classifyTok tok = kind) :
    exec (.descCompleted k n tog tok) s = if s.wordFits k n tog kind then s.completeSlot k n kind else .next s := by
  subst hkind
  rfl

/-- What a token leaves in its slot is the armed toggle, for an IN with the armed count and for a SETUP with count 8. -/
theorem wordFits_false {n : BitVec 10} {tog : Toggle} {kind : TokKind} (h : tog ≠ descTog (s.slot k).desc ∨
    kind = .other ∨ kind = .in_ ∧ n ≠ descCount (s.slot k).desc ∨ kind = .setup ∧ n ≠ 8) :
    s.wordFits k n tog kind = false := by
  unfold State.wordFits
  rcases h with h | rfl | ⟨rfl, h⟩ | ⟨rfl, h⟩
  · rw [decide_eq_false h, Bool.false_and]
  · exact Bool.and_false _
  · dsimp only
    rw [decide_eq_false h, Bool.and_false]
  · dsimp only
    rw [decide_eq_false h, Bool.and_false]

theorem exec_descCompleted_in (s : State) (e : Ep) :
    exec (.descCompleted (linkSlot s e .tx) (descCount (s.slot (linkSlot s e .tx)).desc)
      (descTog (s.slot (linkSlot s e .tx)).desc) 0x9) s = exec (.linkIn (e.setWidth 8)) s := by
  rw [exec_descCompleted (kind := .in_) rfl, if_pos (by simp [State.wordFits])]
  simp [exec, State.completeSlot, State.tokenSlot, linkSlot]

theorem exec_descCompleted_out (s : State) (e : Ep) (n : BitVec 10) :
    exec (.descCompleted (linkSlot s e .rx) n (descTog (s.slot (linkSlot s e .rx)).desc) 0x1) s =
      exec (.linkOut (e.setWidth 8) (descTog (s.slot (linkSlot s e .rx)).desc)
        (memRead s.mem (s.slot (linkSlot s e .rx)).addr n.toNat)) s := by
  rw [exec_descCompleted (kind := .out) rfl, if_pos (by simp [State.wordFits])]
  simp [exec, State.completeSlot, State.tokenSlot, linkSlot]

theorem exec_descCompleted_setup (s : State) :
    exec (.descCompleted (linkSlot s 0 .rx) 8 (descTog (s.slot (linkSlot s 0 .rx)).desc) 0xD) s =
      exec (.linkSetup (memRead s.mem (s.slot (linkSlot s 0 .rx)).addr 8)) s := by
  rw [exec_descCompleted (kind := .setup) rfl, if_pos (by simp [State.wordFits])]
  simp [exec, State.completeSlot, State.tokenSlot, linkSlot]

/-- A slot of another bank than the link's is completed by no token (spec/40_bdt_link.md R145). -/
theorem completeSlot_otherBank (h : k ≠ linkSlot s (slotEp k) (slotDir k)) (n : BitVec 10) (kind : TokKind) :
    s.completeSlot k n kind = .next s := if_pos (bne_iff_ne.mpr h)

/-- No token of the slot's endpoint and direction has that kind. -/
theorem completeSlot_otherKind {kind : TokKind} (h : kind = .in_ ∧ slotDir k = .rx ∨ kind ≠ .in_ ∧ slotDir k = .tx ∨
    kind = .setup ∧ slotEp k ≠ 0) (n : BitVec 10) : s.completeSlot k n kind = .next s := by
  unfold State.completeSlot
  split
  · rfl
  · split
    · next hdir =>
      have hep : slotEp k ≠ 0 := by simpa [hdir] using h
      exact if_neg hep
    · next hdir => simp [hdir] at h
    · next hdir => simp [hdir] at h
    all_goals rfl

theorem epOf_setWidth (e : Ep) : epOf (e.setWidth 8) = e := by simp [epOf]

/-- A slot the link does not own is completed by no token, where its endpoint is not stalled. -/
theorem token_unowned {e : Ep} {ep : Byte} {d : Dir} {k : Out} (hep : epOf ep = e)
    (hown : descOwn (s.slot (s.tokenSlot e d)).desc = false) (hstall : epcStall (s.endptReg e) = false) :
    s.token ep d k = .next s := by
  subst hep
  by_cases hclosed : TokenClosed s ep
  · exact token_closed hclosed
  · exact token_unarmed (tokenOpen_iff.mpr ⟨hclosed, hstall⟩) (.inr hown)

theorem completeSlot_unowned (hown : descOwn (s.slot k).desc = false)
    (hstall : epcStall (s.endptReg (slotEp k)) = false) (n : BitVec 10) (kind : TokKind) : s.completeSlot k n kind = .next s := by
  unfold State.completeSlot
  split
  · rfl
  · next hbank =>
    rw [bne_iff_ne, not_not] at hbank
    have hidle : ∀ {d ep o}, slotDir k = d → epOf ep = slotEp k → s.token ep d o = .next s := by
      rintro d ep o rfl hep
      exact token_unowned hep (hbank ▸ hown) hstall
    split
    · next hrx =>
      split
      · next hep => exact hidle hrx hep.symm
      · rfl
    · next hrx => exact hidle hrx (epOf_setWidth _)
    · next htx => exact hidle htx (epOf_setWidth _)
    all_goals rfl

/-! ## The statement -/

/-- A completed word that no transaction leaves in its slot (spec/40_bdt_link.md R143, R145 to R148): of another bank,
toggle, kind, direction, endpoint or count, or in a slot the link does not own. -/
theorem exec_descCompleted_idle {n : BitVec 10} {tog : Toggle} {tok : BitVec 4}
    (h : k ≠ linkSlot s (slotEp k) (slotDir k) ∨ tog ≠ descTog (s.slot k).desc ∨
      descOwn (s.slot k).desc = false ∧ epcStall (s.endptReg (slotEp k)) = false ∨
      tok ≠ 0xD ∧ tok ≠ 0x1 ∧ tok ≠ 0x9 ∨ (tok = 0x9 ∧ slotDir k = .rx) ∨ (tok ≠ 0x9 ∧ slotDir k = .tx) ∨
      (tok = 0xD ∧ slotEp k ≠ 0) ∨ (tok = 0x9 ∧ n ≠ descCount (s.slot k).desc) ∨ (tok = 0xD ∧ n ≠ 8)) :
    exec (.descCompleted k n tog tok) s = .next s := by
  have hunfit : s.wordFits k n tog (classifyTok tok) = false → exec (.descCompleted k n tog tok) s = .next s :=
    fun hfit => (exec_descCompleted rfl).trans (if_neg (Bool.not_eq_true _ ▸ hfit))
  have hidle : s.completeSlot k n (classifyTok tok) = .next s → exec (.descCompleted k n tog tok) s = .next s :=
    fun hslot => by rw [exec_descCompleted rfl, hslot, ite_self]
  rcases h with hbank | htog | ⟨hown, hstall⟩ | hother | ⟨rfl, hrx⟩ | ⟨hne, htx⟩ | ⟨rfl, hep⟩ | ⟨rfl, hn⟩ | ⟨rfl, hn⟩
  · exact hidle (completeSlot_otherBank hbank n _)
  · exact hunfit (wordFits_false (.inl htog))
  · exact hidle (completeSlot_unowned hown hstall n _)
  · exact hunfit (wordFits_false (.inr (.inl (classifyTok_eq_other.mpr hother))))
  · exact hidle (completeSlot_otherKind (.inl ⟨rfl, hrx⟩) n)
  · exact hidle (completeSlot_otherKind (.inr (.inl ⟨mt classifyTok_eq_in.mp hne, htx⟩)) n)
  · exact hidle (completeSlot_otherKind (.inr (.inr ⟨rfl, hep⟩)) n)
  · exact hunfit (wordFits_false (.inr (.inr (.inl ⟨rfl, hn⟩))))
  · exact hunfit (wordFits_false (.inr (.inr (.inr ⟨rfl, hn⟩))))

/-- Settles O38: software's forms are a caller's writes; a completed word that its slot's bank, toggle, direction, kind
and count allow is the token of that kind, and every other one no step. -/
theorem descriptorWordsByForm : Obligations.DescriptorWordsByForm := by
  refine ⟨?_, fun s k n tog f => ⟨fun hout => ⟨if_pos hout, if_pos hout⟩, fun hk hown => ?_⟩, ?_, ?_,
    fun s k n tog tok h => exec_descCompleted_idle h⟩
  · rintro s k n tog f a rfl hk hown hfifo
    have hfree : s.slotBusy k = false := slotBusy_eq_false.mpr ⟨hown, hfifo⟩
    rw [exec_descArmed hk, exec_descUnarmed hk, hfree]
    exact ⟨rfl, armOutside_free (descCount_armedForm n tog f) hfree⟩
  · have hbusy : s.slotBusy k = true := slotBusy_eq_true.mpr (.inl hown)
    rw [exec_descArmed hk, exec_descUnarmed hk, hbusy, armOutside_busy hbusy]
    exact ⟨rfl, rfl⟩
  · rintro s e k w rfl rfl
    refine ⟨exec_descCompleted_in s e, fun hopen hen hown hstall hreach => ?_⟩
    have hsend : exec (.linkIn (e.setWidth 8)) s = .next (s.sendIn (epOf (e.setWidth 8))) := by
      refine exec_linkIn_armed hopen ?_ ?_ ?_ ?_ <;> rw [epOf_setWidth] <;> assumption
    exact ⟨_, (exec_descCompleted_in s e).trans hsend, hsend⟩
  · rintro s e k w n rfl rfl
    refine ⟨exec_descCompleted_out s e n, ?_⟩
    rintro rfl
    exact exec_descCompleted_setup s

end Sys2Proof.Machine
end

section
/-! What the link never does (spec/40_bdt_link.md R156, spec/20_memory.md R70): every link event changes nothing, raises
flags, or completes one slot the link owns; and it is blind to the block's own elements. -/

namespace Sys2Proof.Machine

variable {s t : State}

/-! ## What a link event does -/

/-- Memory after a receive completion, or as it was. -/
def StoredAtMost (s : State) (m : List Host.Cell) : Prop :=
  m = s.mem ∨ ∃ a bs, Storable s a bs.length ∧ m = memWrite s.mem a bs

/-- The change a link event makes (spec/40_bdt_link.md R146 to R155). -/
inductive LinkChange (s : State) : State → Prop
  /-- nothing -/
  | idle : LinkChange s s
  /-- flags of `ISTAT` and `ERRSTAT` are raised -/
  | flags (istat errStat : Byte) : LinkChange s { s with
      regs := { s.regs with istat := s.regs.istat ||| istat, errStat := s.regs.errStat ||| errStat } }
  /-- a slot the link owns is completed, its status byte queued -/
  | completion (k : SlotIx) (w : Word) (st : Byte) (suspended : Bool) (banks : Tab 5 Bank) (m : List Host.Cell)
      (env : Env) (hown : descOwn (s.slot k).desc = true) (hw : descOwn w = false) (hm : StoredAtMost s m) :
      LinkChange s { s with
        regs := { s.regs with statFifo := s.regs.statFifo ++ [st], suspended := suspended }
        bdt := s.bdt.set k ⟨w, (s.slot k).addr⟩, hwBank := banks, mem := m, env := env }

/-- Every next state of the outcome is such a change. -/
def LinkChanges (s : State) (o : Out) : Prop := ∀ t, o = .next t → LinkChange s t

theorem LinkChanges.next (h : LinkChange s t) : LinkChanges s (.next t) := by
  intro u hu
  injection hu with hu
  exact hu ▸ h

theorem LinkChanges.idle (s : State) : LinkChanges s (.next s) := .next .idle

theorem LinkChange.raise (s : State) (v : Byte) : LinkChange s (s.raiseIstat v) := by
  have h := LinkChange.flags (s := s) v 0
  rw [show s.regs.errStat ||| 0 = s.regs.errStat from BitVec.or_zero] at h
  exact h

theorem LinkChange.latch (s : State) (m : Byte) : LinkChange s (s.latchErrors m) := by
  have h := LinkChange.flags (s := s) 0 m
  rw [show s.regs.istat ||| 0 = s.regs.istat from BitVec.or_zero] at h
  exact h

theorem LinkChanges.ite {c : Prop} [Decidable c] {a b : Out} (ha : LinkChanges s a) (hb : LinkChanges s b) :
    LinkChanges s (if c then a else b) := by split <;> assumption

theorem linkChange_raiseIf (s : State) (c : Prop) [Decidable c] (v : Byte) :
    LinkChange s (if c then s.raiseIstat v else s) := by
  split
  · exact .raise s v
  · exact .idle

theorem linkChanges_token {ep : Byte} {d : Dir} {k : Out}
    (h : descOwn (s.slot (s.tokenSlot (epOf ep) d)).desc = true → LinkChanges s k) :
    LinkChanges s (s.token ep d k) := by
  rcases token_cases s ep d k with hk | hk | ⟨-, -, -, -, hown, -, hk⟩ <;> rw [hk]
  · exact .idle s
  · exact .next (.raise s 0x80)
  · exact h hown

theorem LinkChanges.withReceive {a : Word} {bs : List Byte} {u : State}
    (h : Storable s a bs.length → LinkChange s u) : LinkChanges s (s.withReceive a bs.length (.next u)) := by
  intro t ht
  obtain ⟨hstore, hu⟩ := withReceive_eq_next.mp ht
  injection hu with hu
  exact hu ▸ h hstore

theorem linkChanges_linkSetup (data : List Byte) (s : State) : LinkChanges s (exec (.linkSetup data) s) :=
  linkChanges_token fun hown => .ite (.idle s) (.withReceive fun hstore =>
    .completion _ _ _ true _ _ _ hown (descOwn_completedWord ..) (.inr ⟨_, data, hstore, rfl⟩))

theorem linkChanges_linkOut (ep : Byte) (tog : Toggle) (data : List Byte) (s : State) :
    LinkChanges s (exec (.linkOut ep tog data) s) :=
  linkChanges_token fun hown => .ite (.idle s) (.withReceive fun hstore =>
    .completion _ _ _ s.regs.suspended _ _ _ hown (descOwn_completedWord ..) (.inr ⟨_, data, hstore, rfl⟩))

theorem linkChanges_linkIn (ep : Byte) (s : State) : LinkChanges s (exec (.linkIn ep) s) :=
  linkChanges_token fun hown => fun t ht => by
    obtain ⟨-, -, hsend⟩ := withSpan_eq_next.mp ht
    injection hsend with hsend
    exact hsend ▸ .completion _ _ _ s.regs.suspended _ _ _ hown (descOwn_completedWord ..) (.inl rfl)

theorem linkChanges_linkError (m : Byte) (s : State) : LinkChanges s (exec (.linkError m) s) := by
  refine .next ?_
  split
  · exact .idle
  · split
    · exact .flags 0x02 m
    · exact .latch s m

/-- What a link event can do, said once. -/
theorem exec_linkChange {i : Instr} (hi : (encode i).1 = .link8) (h : exec i s = .next t) : LinkChange s t := by
  suffices hall : LinkChanges s (exec i s) from hall t h
  cases i with
  | linkSetup data => exact linkChanges_linkSetup data s
  | linkOut ep tog data => exact linkChanges_linkOut ep tog data s
  | linkIn ep => exact linkChanges_linkIn ep s
  | linkSof => exact .next (linkChange_raiseIf s _ 0x04)
  | linkReset => exact .next (linkChange_raiseIf s _ 0x01)
  | linkSleep => exact .next (linkChange_raiseIf s _ 0x10)
  | linkStalled ep => exact .next (linkChange_raiseIf s _ 0x80)
  | linkError m => exact linkChanges_linkError m s
  | linkNak => exact .idle s
  | _ => simp [encode] at hi

/-! ## What such a change leaves -/

theorem LinkChange.frame (h : LinkChange s t) :
    t = { s with regs := t.regs, bdt := t.bdt, hwBank := t.hwBank, mem := t.mem, env := t.env } ∧
    t.regs.endpt = s.regs.endpt ∧ t.regs.addr = s.regs.addr ∧ t.regs.intEn = s.regs.intEn ∧
    t.regs.bdtPage = s.regs.bdtPage := by
  cases h <;> exact ⟨rfl, rfl, rfl, rfl, rfl⟩

/-- Only a slot the link owns is written, and it is then its own no more; its `addr` stays. -/
theorem LinkChange.slot_cases (h : LinkChange s t) (k : SlotIx) :
    t.slot k = s.slot k ∨
      descOwn (s.slot k).desc = true ∧ descOwn (t.slot k).desc = false ∧ (t.slot k).addr = (s.slot k).addr := by
  cases h with
  | idle => exact .inl rfl
  | flags => exact .inl rfl
  | completion j w _ _ _ _ _ hown hw =>
    by_cases hj : j = k
    · subst hj
      refine .inr ⟨hown, ?_⟩
      rw [State.slot_def, Tab.get_set_self]
      exact ⟨hw, rfl⟩
    · exact .inl (Tab.get_set_ne _ _ hj)

theorem and_or_self {w : Nat} (x v : BitVec w) : x &&& (x ||| v) = x := by
  ext i
  simpa using Or.inl

/-- A flag of `ISTAT` stays where the stored flags stay and the status queue is not emptied. -/
theorem istatReg_kept (hflags : s.regs.istat &&& t.regs.istat = s.regs.istat)
    (hqueue : t.regs.statFifo = [] → s.regs.statFifo = []) : s.istatReg &&& t.istatReg = s.istatReg := by
  refine BitVec.eq_of_getLsbD_eq fun i hi => ?_
  rw [BitVec.getLsbD_and, Bool.and_eq_left_iff_imp, istatReg_getLsbD s hi, istatReg_getLsbD t hi]
  split
  · simpa using mt hqueue
  · intro hs
    rw [← hflags, BitVec.getLsbD_and, Bool.and_eq_true] at hs
    exact hs.2

theorem LinkChange.flags_kept (h : LinkChange s t) :
    s.istatReg &&& t.istatReg = s.istatReg ∧ s.regs.errStat &&& t.regs.errStat = s.regs.errStat := by
  cases h with
  | idle => exact ⟨BitVec.and_self, BitVec.and_self⟩
  | flags => exact ⟨istatReg_kept (and_or_self _ _) id, and_or_self _ _⟩
  | completion => exact ⟨istatReg_kept BitVec.and_self (by simp), BitVec.and_self⟩

theorem LinkChange.mem_of_statFifo (h : LinkChange s t) (hq : t.regs.statFifo = s.regs.statFifo) : t.mem = s.mem := by
  cases h with
  | idle => rfl
  | flags => rfl
  | completion => simp at hq

/-- A byte of the descriptor store lies outside every span the link may store to (spec/20_memory.md R70, R86). -/
theorem Storable.outside {a b : Word} {n : Nat} (h : Storable s a n) (hb : InStore s b) :
    b.toNat < a.toNat ∨ a.toNat + n ≤ b.toNat := by
  obtain ⟨r, hr, hlo, hhi⟩ := hb
  have hapart := List.all_eq_true.mp h.2 r hr
  simp only [spansApart, Bool.or_eq_true, decide_eq_true_eq] at hapart
  omega

theorem LinkChange.store_kept (h : LinkChange s t) (hmem : s.memCanonical) (b : Word) (hb : InStore s b) :
    t.byte b = s.byte b := by
  cases h with
  | idle => rfl
  | flags => rfl
  | completion _ _ _ _ _ m _ _ _ hm =>
    rcases hm with rfl | ⟨a, bs, hstore, rfl⟩
    · rfl
    · exact sameBytesOutside_store hmem hstore.span_le b (hstore.outside hb)

/-! ## An event without receive data stores nothing -/

theorem exec_link_mem {i : Instr} (hi : (encode i).1 = .link8)
    (hrx : (∀ data, i ≠ .linkSetup data) ∧ ∀ ep tog data, i ≠ .linkOut ep tog data) :
    Keeps State.mem s (exec i s) := by
  cases i with
  | linkSetup data => exact absurd rfl (hrx.1 data)
  | linkOut ep tog data => exact absurd rfl (hrx.2 ep tog data)
  | linkIn ep =>
    rw [exec, execLinkIn]
    rcases token_cases s ep .tx _ with hk | hk | ⟨-, -, -, -, -, -, hk⟩ <;> rw [hk]
    · exact .next rfl
    · exact .next rfl
    · exact .withSpan (.next rfl)
  | linkSof | linkReset | linkSleep | linkStalled => exact .next (by split <;> rfl)
  | linkError => exact .next (by split; exacts [rfl, by split <;> rfl])
  | linkNak => exact .next rfl
  | _ => simp [encode] at hi

/-! ## The link reads none of the block's own elements -/

/-- `s` with the packets, queues, endpoint records, control-transfer context and timers of `u`. -/
def State.withOwn (s u : State) : State := { s with pool := u.pool, eps := u.eps, ep0 := u.ep0, ctx := u.ctx }

/-- The outcome with them. -/
def outWithOwn (o : Out) (u : State) : Out := andThen o fun t => .next (t.withOwn u)

theorem outWithOwn_ite {c : Prop} [Decidable c] (a b : Out) (u : State) :
    outWithOwn (if c then a else b) u = if c then outWithOwn a u else outWithOwn b u := by split <;> rfl

theorem token_withOwn {ep : Byte} {d : Dir} {k k' : Out} {u : State} (hk : k' = outWithOwn k u) :
    (s.withOwn u).token ep d k' = outWithOwn (s.token ep d k) u := by
  subst hk
  simp only [State.token, outWithOwn_ite]
  rfl

theorem withSpan_withOwn (c : Config) (a : Word) (n : Nat) (k : Out) (u : State) :
    withSpan c a n (outWithOwn k u) = outWithOwn (withSpan c a n k) u := by
  simp only [withSpan, outWithOwn_ite]
  rfl

theorem withReceive_withOwn (a : Word) (n : Nat) (k : Out) (u : State) :
    (s.withOwn u).withReceive a n (outWithOwn k u) = outWithOwn (s.withReceive a n k) u := by
  simp only [State.withReceive, outWithOwn_ite, ← withSpan_withOwn]
  rfl

theorem withOwn_ite {c : Prop} [Decidable c] (a b u : State) :
    (if c then a else b).withOwn u = if c then a.withOwn u else b.withOwn u := by split <;> rfl

theorem raiseIf_withOwn (c : Prop) [Decidable c] (v : Byte) (u : State) :
    (if c then (s.withOwn u).raiseIstat v else s.withOwn u) = (if c then s.raiseIstat v else s).withOwn u := by
  split <;> rfl

theorem exec_link_withOwn {i : Instr} (hi : (encode i).1 = .link8) (s u : State) :
    exec i (s.withOwn u) = outWithOwn (exec i s) u := by
  cases i with
  | linkSetup data =>
    refine token_withOwn ?_
    rw [outWithOwn_ite, ← withReceive_withOwn]
    rfl
  | linkOut ep tog data =>
    refine token_withOwn ?_
    rw [outWithOwn_ite, ← withReceive_withOwn]
    rfl
  | linkIn ep =>
    refine token_withOwn ?_
    rw [← withSpan_withOwn]
    rfl
  | linkSof => exact congrArg Host.Outcome.next (raiseIf_withOwn _ 0x04 u)
  | linkReset => exact congrArg Host.Outcome.next (raiseIf_withOwn _ 0x01 u)
  | linkSleep => exact congrArg Host.Outcome.next (raiseIf_withOwn _ 0x10 u)
  | linkStalled ep => exact congrArg Host.Outcome.next (raiseIf_withOwn _ 0x80 u)
  | linkError m =>
    rw [exec, exec, execLinkError, execLinkError, outWithOwn, andThen_next, withOwn_ite, withOwn_ite]
    rfl
  | linkNak => rfl
  | _ => simp [encode] at hi

/-- Settles O17: each event is nothing, flags raised, or one completion of a slot the link owns, whose store the
descriptor store is apart from; and it commutes with any change of the block's own elements. -/
theorem linkTouchesNothingElse : Obligations.LinkTouchesNothingElse := by
  intro i s t hi h
  have hc := exec_linkChange hi h
  obtain ⟨hframe, hendpt, haddr, hintEn, hpage⟩ := hc.frame
  obtain ⟨histat, herr⟩ := hc.flags_kept
  refine ⟨hframe, hendpt, haddr, hintEn, hpage, fun k => ?_, fun k hown => ?_, fun k hown => ?_, histat, herr,
    fun hrx a => ?_, hc.store_kept, fun u hu => ?_⟩
  · rcases hc.slot_cases k with hsame | ⟨-, -, haddr⟩
    · rw [hsame]
    · exact haddr
  · rcases hc.slot_cases k with hsame | ⟨hs, -, -⟩
    · exact hsame ▸ hown
    · exact hs
  · rcases hc.slot_cases k with hsame | ⟨hs, -, -⟩
    · exact hsame
    · rw [hs] at hown
      cases hown
  · have hmem : t.mem = s.mem := hrx.elim (fun hrx => exec_link_mem hi hrx t h) hc.mem_of_statFifo
    rw [State.byte_def, State.byte_def, hmem]
  · calc exec i u = exec i (s.withOwn u) := congrArg _ hu
      _ = outWithOwn (exec i s) u := exec_link_withOwn hi s u
      _ = .next (t.withOwn u) := by rw [h]; rfl

end Sys2Proof.Machine
end

section
/-! The allocator (spec/41_allocator.md): which packet ALLOC takes and what it leaves unchanged, what pool_return puts
back, which endpoint a released packet is offered to, and which receive slot a redirection arms. -/

namespace Sys2Proof.Machine

variable {s : State} {e : Ep} {i : Nat}

/-! ## The endpoint numbers -/

theorem isEndpoint_eq_true {c : Config} {n : Nat} : c.isEndpoint n = true ↔ 1 ≤ n ∧ n ≤ c.nEp.toNat := by
  simp [Config.isEndpoint]

theorem ofNat_toNat_pred_succ (h : 1 ≤ e.toNat) : BitVec.ofNat 4 (e.toNat - 1 + 1) = e := by
  rw [Nat.sub_add_cancel h, BitVec.ofNat_toNat, BitVec.setWidth_eq]

theorem mem_endpoints {c : Config} : e ∈ c.endpoints ↔ 1 ≤ e.toNat ∧ e.toNat ≤ c.nEp.toNat := by
  simp only [Config.endpoints, List.mem_map, List.mem_range]
  constructor
  · rintro ⟨k, hk, rfl⟩
    have hk' : (BitVec.ofNat 4 (k + 1)).toNat = k + 1 := Nat.mod_eq_of_lt (by omega)
    omega
  · exact fun ⟨hlo, hhi⟩ => ⟨e.toNat - 1, by omega, ofNat_toNat_pred_succ hlo⟩

/-- A search of `1..N_EP` meets the lowest-numbered hit first: it stands at place `e - 1`, and the earlier places
hold the lower numbers. -/
theorem find?_endpoints_eq_some {c : Config} {q : Ep → Bool} (hlo : 1 ≤ e.toNat) (hhi : e.toNat ≤ c.nEp.toNat)
    (he : q e = true) (hlow : ∀ f : Ep, 1 ≤ f.toNat → f.toNat < e.toNat → q f = false) :
    c.endpoints.find? q = some e := by
  refine List.find?_eq_some_iff_getElem.mpr ⟨he, e.toNat - 1, by simp [Config.endpoints]; omega, ?_, fun j hj => ?_⟩
  · simpa [Config.endpoints] using ofNat_toNat_pred_succ hlo
  · have hj' : (BitVec.ofNat 4 (j + 1)).toNat = j + 1 := Nat.mod_eq_of_lt (by omega)
    simp [Config.endpoints, hlow (BitVec.ofNat 4 (j + 1)) (by omega) (by omega)]

/-! ## Allocation (R171 to R174) -/

theorem firstFree_eq_some {m : Word} {n : Nat} :
    firstFree m n = some i ↔ i < n ∧ m.getMsbD i = true ∧ ∀ j, j < i → m.getMsbD j = false := by
  simp [firstFree, List.find?_range_eq_some, and_left_comm]

theorem firstFree_eq_none {m : Word} {n : Nat} : firstFree m n = none ↔ ∀ j, j < n → m.getMsbD j = false := by
  simp [firstFree]

theorem allocShared_some (h : firstFree s.pool.freeMap s.cfg.numBuffers = some i) :
    s.allocShared = (some i, s.takeShared i) := by
  rw [State.allocShared, h]

theorem allocShared_none (h : firstFree s.pool.freeMap s.cfg.numBuffers = none) : s.allocShared = (none, s) := by
  rw [State.allocShared, h]

theorem allocSegregated_cons {ep : Byte} {rest : List Nat} (hep : s.validEp ep = true)
    (h : s.pool.freeList.get (epOf ep) = i :: rest) :
    s.allocSegregated ep = (some i, (s.setFreeList (epOf ep) rest).freshHeader i) := by
  rw [State.allocSegregated, if_pos hep, h]

theorem allocSegregated_none {ep : Byte} (h : s.validEp ep = false ∨ s.pool.freeList.get (epOf ep) = []) :
    s.allocSegregated ep = (none, s) := by
  rcases h with h | h
  · simp [State.allocSegregated, h]
  · simp [State.allocSegregated, h]

theorem validEp_eq_false {ep : Byte} (h : ep.toNat < 1 ∨ s.cfg.nEp.toNat < ep.toNat) : s.validEp ep = false := by
  rw [State.validEp, ← Bool.not_eq_true, isEndpoint_eq_true]
  omega

theorem pkt_freshHeader_self (s : State) (i : Nat) : (s.freshHeader i).pkt i = ⟨0, 0, (s.pkt i).owner⟩ := by
  rw [State.freshHeader, State.pkt_setPkt, if_pos rfl]

theorem sameHeadersBut_freshHeader (s : State) (i : Nat) : SameHeadersBut [i] s (s.freshHeader i) := fun j hj => by
  rw [State.freshHeader, State.pkt_setPkt, if_neg fun h => hj (List.mem_singleton.mpr h.symm)]

/-- Settles O21: the search of `free_map` stops at the lowest free packet, which is taken; with none free nothing is. -/
theorem allocTakesLowestFree : Obligations.AllocTakesLowestFree := by
  refine ⟨fun s ep n hn hfree hlow => ?_, fun s ep hnone => ?_⟩
  · have halloc : s.allocShared = (some n, s.takeShared n) := allocShared_some (firstFree_eq_some.mpr ⟨hn, hfree, hlow⟩)
    refine ⟨(s.takeShared n).setResult (.packet (some n)), ?_, rfl, rfl, pkt_freshHeader_self _ n,
      sameHeadersBut_freshHeader _ n, rfl, rfl, fun _ => rfl⟩
    rw [exec, execAlloc, halloc]
  · rw [exec, execAlloc, allocShared_none (firstFree_eq_none.mpr hnone)]
    rfl

/-- Settles O22: the head of the endpoint's list is popped and its header cleared; elsewhere nothing changes. -/
theorem allocSegPopsFreeList : Obligations.AllocSegPopsFreeList := by
  refine ⟨fun s ep p rest hlo hhi hlist => ?_, fun s ep hnone => ?_⟩
  · have halloc := allocSegregated_cons (isEndpoint_eq_true.mpr ⟨hlo, hhi⟩) hlist
    refine ⟨((s.setFreeList (epOf ep) rest).freshHeader p).setResult (.packet (some p)), ?_, rfl, Tab.get_set_self ..,
      fun f hf => Tab.get_set_ne _ _ hf.symm, pkt_freshHeader_self _ p, sameHeadersBut_freshHeader _ p, rfl, rfl,
      fun _ => rfl⟩
    rw [exec, execAllocSeg, halloc]
  · have hnone' : s.validEp ep = false ∨ s.pool.freeList.get (epOf ep) = [] :=
      (or_assoc.mpr hnone).imp_left validEp_eq_false
    rw [exec, execAllocSeg, allocSegregated_none hnone']
    rfl

/-! ## pool_return (R175) -/

theorem poolReturn_next (hlt : i < s.cfg.numBuffers) (hfree : s.pktFree i = false) :
    s.poolReturn i = .next (s.poolPut i) := poolReturn_eq_next.mpr ⟨hlt, hfree, rfl⟩

theorem poolReturn_free (hlt : i < s.cfg.numBuffers) (hfree : s.pktFree i = true) :
    s.poolReturn i = .refused .packetFree := by
  rw [State.poolReturn, if_neg (Nat.not_le.mpr hlt), if_pos hfree]

theorem poolPut_shared (h : s.cfg.allocStrategy = .sharedBitmap) (i : Nat) :
    s.poolPut i = { s with pool := { s.pool with freeMap := s.pool.freeMap ||| mapBit i } } := by
  rw [State.poolPut, h]

theorem poolPut_segregated (h : s.cfg.allocStrategy = .segregated) (i : Nat) :
    s.poolPut i = s.setFreeList (s.ownerEp i) (i :: s.pool.freeList.get (s.ownerEp i)) := by
  rw [State.poolPut, h]

/-- Settles O23: the packet goes into the free structure of the build's strategy, unless it is there already. -/
theorem poolReturnFrees : Obligations.PoolReturnFrees := by
  refine ⟨fun s p hlt hfree => ?_, fun s p hlt hfree => poolReturn_free hlt hfree⟩
  have hput : exec (.poolReturn p) s = .next (s.poolPut p.toNat) := poolReturn_next hlt hfree
  exact ⟨fun h => hput.trans (congrArg _ (poolPut_shared h _)),
    fun h => hput.trans (congrArg _ (poolPut_segregated h _))⟩

/-! ## starved_target (R177) -/

theorem starvedTarget_shared (h : s.cfg.allocStrategy = .sharedBitmap) (i : Nat) :
    s.starvedTarget i = s.cfg.endpoints.find? fun f => (s.endpoint f).starved := by
  rw [State.starvedTarget, h]

theorem starvedTarget_segregated (h : s.cfg.allocStrategy = .segregated) (howner : (s.pkt i).owner = e.toNat)
    (hlo : 1 ≤ e.toNat) (hhi : e.toNat ≤ s.cfg.nEp.toNat) :
    s.starvedTarget i = if (s.endpoint e).starved then some e else none := by
  have he : s.ownerEp i = e := by rw [State.ownerEp, howner, BitVec.ofNat_toNat, BitVec.setWidth_eq]
  rw [State.starvedTarget, h, he]
  simp [mem_endpoints, hlo, hhi]

theorem mem_endpoints_of_starvedTarget (h : s.starvedTarget i = some e) : e ∈ s.cfg.endpoints := by
  unfold State.starvedTarget at h
  split at h
  · obtain ⟨howner, he⟩ := Option.ite_none_right_eq_some.mp h
    obtain ⟨hmem, -⟩ := Bool.and_eq_true_iff.mp howner
    exact Option.some.inj he ▸ List.contains_iff_mem.mp hmem
  · exact List.mem_of_find?_eq_some h

/-- Settles O24: the first starved endpoint of `1..N_EP`, or under Segregated the owner if it is starved. -/
theorem starvedTargetChoice : Obligations.StarvedTargetChoice := by
  refine ⟨fun s p e hs hlo hhi he hlow => ?_, fun s p hs hnone => ?_, fun s p e hs howner hlo hhi => ?_⟩
  · rw [exec, execStarvedTarget, starvedTarget_shared hs, find?_endpoints_eq_some hlo hhi he hlow]
    rfl
  · have hfind : (s.cfg.endpoints.find? fun f => (s.endpoint f).starved) = none :=
      List.find?_eq_none.mpr fun f hf => by
        obtain ⟨hlo, hhi⟩ := mem_endpoints.mp hf
        simp [hnone f hlo hhi]
    rw [exec, execStarvedTarget, starvedTarget_shared hs, hfind]
    rfl
  · rw [exec, execStarvedTarget, starvedTarget_segregated hs howner hlo hhi]
    rfl

/-! ## Redirection (R178) -/

theorem rxUnarmed_eq_true {b : Bank} : s.rxUnarmed e b = true ↔ (s.slot (slotOf e .rx b)).desc = 0 :=
  decide_eq_true_iff

theorem rxUnarmed_eq_false {b : Bank} : s.rxUnarmed e b = false ↔ (s.slot (slotOf e .rx b)).desc ≠ 0 :=
  decide_eq_false_iff_not

theorem lt_and_notFree_of_pktLoose (h : s.pktLoose i = true) : i < s.cfg.numBuffers ∧ s.pktFree i = false := by
  simp only [State.pktLoose, Bool.and_eq_true, decide_eq_true_eq, Bool.not_eq_true'] at h
  obtain ⟨⟨⟨hlt, hfree⟩, -⟩, -⟩ := h
  exact ⟨hlt, hfree⟩

theorem exec_redirect {p : BitVec 16} (hlo : 1 ≤ e.toNat) (hhi : e.toNat ≤ s.cfg.nEp.toNat)
    (hloose : s.pktLoose p.toNat = true) : exec (.redirect e p) s = s.redirect e p.toNat := by
  simp [exec, execRedirect, isEndpoint_eq_true.mpr ⟨hlo, hhi⟩, (lt_and_notFree_of_pktLoose hloose).2, hloose]

theorem redirect_first {b : Bank} (hb : s.rxUnarmed e b = true) (hfirst : b = .odd → s.rxUnarmed e .even = false)
    (i : Nat) : s.redirect e i = .next (s.redirectTo e b i) := by
  unfold State.redirect
  cases b with
  | even => rw [if_pos hb]
  | odd => simp [hb, hfirst rfl]

theorem redirect_pool (heven : s.rxUnarmed e .even = false) (hodd : s.rxUnarmed e .odd = false) (i : Nat) :
    s.redirect e i = (s.setStarved e false).poolReturn i := by
  simp [State.redirect, heven, hodd]

/-- Both values of `STARVED_CLEAR` at once. -/
theorem redirectTo_eq (s : State) (e : Ep) (b : Bank) (i : Nat) :
    s.redirectTo e b i =
      (s.armRx e b i).setStarved e (s.cfg.starvedClear = .whenNoUnarmedSlot && s.rxUnarmed e b.flip) := by
  unfold State.redirectTo
  split <;> rename_i h <;> simp [h]

theorem sameSlotsBut_redirectTo (s : State) (e : Ep) (b : Bank) (i : Nat) :
    SameSlotsBut [slotOf e .rx b] s (s.redirectTo e b i) := fun k hk => by
  rw [redirectTo_eq]
  exact Tab.get_set_ne _ _ fun h => hk (List.mem_singleton.mpr h.symm)

theorem sameEndpointsBut_redirectTo (s : State) (e : Ep) (b : Bank) (i : Nat) :
    SameEndpointsBut [e] s (s.redirectTo e b i) := fun f hf => by
  rw [redirectTo_eq]
  exact Tab.get_set_ne _ _ fun h => hf (List.mem_singleton.mpr h.symm)

/-- Settles O25: the first Unarmed receive slot is armed and the flag set by `STARVED_CLEAR`, or the flag falls and
the packet goes to the pool. -/
theorem redirectArmsStarvedSlot : Obligations.RedirectArmsStarvedSlot := by
  refine ⟨fun s e p b hlo hhi hloose hdesc hfirst => ?_, fun s e p hlo hhi hloose heven hodd => ?_⟩
  · refine ⟨s.redirectTo e b p.toNat, ?_, ?_, sameSlotsBut_redirectTo s e b _, ?_,
      sameEndpointsBut_redirectTo s e b _, ?_, ?_⟩
    · exact (exec_redirect hlo hhi hloose).trans
        (redirect_first (rxUnarmed_eq_true.mpr hdesc) (fun hb => rxUnarmed_eq_false.mpr (hfirst hb)) _)
    all_goals rw [redirectTo_eq]
    · exact Tab.get_set_self ..
    · exact Tab.get_set_self ..
    · rfl
    · exact fun _ => rfl
  · exact (exec_redirect hlo hhi hloose).trans
      (redirect_pool (rxUnarmed_eq_false.mpr heven) (rxUnarmed_eq_false.mpr hodd) _)

/-! ## RELEASE (R176) -/

theorem pktLoose_of_pktHeld (h : s.pktHeld i = true) : s.pktLoose i = true := by
  rw [State.pktHeld, Bool.and_eq_true] at h
  exact h.1

theorem exec_release {p : BitVec 16} (h : s.pktHeld p.toNat = true) : exec (.release p) s = s.releaseTo p.toNat := by
  have hloose := pktLoose_of_pktHeld h
  obtain ⟨hlt, hfree⟩ := lt_and_notFree_of_pktLoose hloose
  simp [exec, execRelease, State.release, hlt, hfree, h, hloose]

theorem releaseTo_pool (h : s.starvedTarget i = none ∨ s.ep0.configuration = 0) : s.releaseTo i = s.poolReturn i := by
  unfold State.releaseTo
  rcases h with htarget | hconf
  · rw [htarget]
  · simp only [hconf, bne_self_eq_false, Bool.false_eq_true, if_false]
    split <;> rfl

theorem releaseTo_redirect (h : s.starvedTarget i = some e) (hconf : s.ep0.configuration ≠ 0) :
    s.releaseTo i = s.redirect e i := by
  have hne : (s.ep0.configuration != 0) = true := bne_iff_ne.mpr hconf
  simp only [State.releaseTo, h, hne, if_true]

/-- A redirection of a pool packet that is not free is never refused: a slot is armed, or the pool takes it. -/
theorem redirect_next (hlt : i < s.cfg.numBuffers) (hfree : s.pktFree i = false) (e : Ep) :
    ∃ t, s.redirect e i = .next t := by
  rcases redirect_cases s e i with ⟨-, h⟩ | ⟨-, -, h⟩ | ⟨-, -, h⟩
  · exact ⟨_, h⟩
  · exact ⟨_, h⟩
  · exact ⟨_, h.trans (poolReturn_next hlt hfree)⟩

/-- Settles O26: a held packet passes RELEASE's checks and those of what it leads to, pool_return or REDIRECT. -/
theorem releaseReturnsOrRedirects : Obligations.ReleaseReturnsOrRedirects := by
  refine ⟨fun s p hheld hpool => ?_, fun s p e hheld htarget hconf => ?_, fun s p hp => if_pos hp,
    fun s p hlt hheld => ?_⟩
  · obtain ⟨hlt, hfree⟩ := lt_and_notFree_of_pktLoose (pktLoose_of_pktHeld hheld)
    rw [exec_release hheld, releaseTo_pool hpool, poolReturn_next hlt hfree]
  · obtain ⟨hlo, hhi⟩ := mem_endpoints.mp (mem_endpoints_of_starvedTarget htarget)
    obtain ⟨hlt, hfree⟩ := lt_and_notFree_of_pktLoose (pktLoose_of_pktHeld hheld)
    obtain ⟨t, ht⟩ := redirect_next hlt hfree e
    refine ⟨t, ?_, (exec_redirect hlo hhi (pktLoose_of_pktHeld hheld)).trans ht⟩
    rw [exec_release hheld, releaseTo_redirect htarget hconf, ht]
  · rw [exec, execRelease, if_neg (Nat.not_le.mpr hlt)]
    cases hfree : s.pktFree p.toNat <;> simp [hheld]

end Sys2Proof.Machine
end

section
/-! The queues (spec/42_queues.md): what enters and leaves the receive and transmit queues, the cached byte count
beside the receive queue, and what the three counts answer. -/

namespace Sys2Proof.Machine

variable {s : State} {e : Ep} {ep : Byte} {i : Nat} {rest : List Nat}

theorem validEp_eq_true : s.validEp ep = true ↔ 1 ≤ ep.toNat ∧ ep.toNat ≤ s.cfg.nEp.toNat := isEndpoint_eq_true

/-! ## The receive queue (R191, R192) -/

theorem rxEnqueue_queued (hq : s.pktQueued i = true) : s.rxEnqueue e i = .refused .packetBusy := if_pos hq

theorem rxEnqueue_free (hq : s.pktQueued i = false) (hfree : s.pktFree i = true) :
    s.rxEnqueue e i = .refused .packetFree := by
  simp [State.rxEnqueue, hq, hfree]

theorem rxEnqueue_empty (hq : s.pktQueued i = false) (hfree : s.pktFree i = false) (hlen : (s.pkt i).len = 0) :
    s.rxEnqueue e i = .refused .emptyPacket := by
  simp [State.rxEnqueue, hq, hfree, hlen]

theorem rxPop_cons (hep : s.validEp ep = true) (h : (s.endpoint (epOf ep)).rxq = i :: rest) :
    s.rxPop ep = (some i, s.setEndpoint (epOf ep) { s.endpoint (epOf ep) with
      rxq := rest, rxBytes := (s.endpoint (epOf ep)).rxBytes - (s.pkt i).len }) := by
  rw [State.rxPop, if_pos hep, h]

theorem rxPop_none (h : s.validEp ep = false ∨ (s.endpoint (epOf ep)).rxq = []) : s.rxPop ep = (none, s) := by
  rcases h with h | h
  · simp [State.rxPop, h]
  · simp [State.rxPop, h]

theorem exec_rxqEnqueue {p : BitVec 16} (hlo : 1 ≤ e.toNat) (hhi : e.toNat ≤ s.cfg.nEp.toNat) :
    exec (.rxqEnqueue e p) s = s.rxEnqueue e p.toNat := if_pos (isEndpoint_eq_true.mpr ⟨hlo, hhi⟩)

/-- Settles O27: enqueue passes its three checks in turn or stops at the first that fails; dequeue takes the head. -/
theorem receiveQueue : Obligations.ReceiveQueue := by
  refine ⟨fun s e p hlo hhi => ?_, fun s ep p rest hlo hhi hq => ?_, fun s ep hnone => ?_⟩
  · rw [exec_rxqEnqueue hlo hhi]
    exact ⟨fun hq hfree hlen => rxEnqueue_eq_next.mpr ⟨hq, hfree, hlen.ne', rfl⟩, rxEnqueue_queued, rxEnqueue_free,
      rxEnqueue_empty⟩
  · rw [exec, execRxDequeue, rxPop_cons (validEp_eq_true.mpr ⟨hlo, hhi⟩) hq]
    rfl
  · have hnone' : s.validEp ep = false ∨ (s.endpoint (epOf ep)).rxq = [] :=
      (or_assoc.mpr hnone).imp_left validEp_eq_false
    rw [exec, execRxDequeue, rxPop_none hnone']
    rfl

/-! ## The counts (R193 to R195) -/

theorem next_count {m n : Nat} (h : m = n) :
    (.next (s.setResult (.count m)) : Out) = .next { s with env := { s.env with result := .count n } } := by
  rw [h]
  rfl

/-- Settles O28: each count is read off the endpoint's record, or is 0 for a number that names no endpoint. -/
theorem queueCounts : Obligations.QueueCounts := by
  refine ⟨fun s ep hlo hhi => ?_, fun s ep hout => ?_⟩
  · have hep : s.validEp ep = true := validEp_eq_true.mpr ⟨hlo, hhi⟩
    exact ⟨next_count (if_pos hep), next_count (if_pos hep), next_count (if_pos hep)⟩
  · have hep : s.validEp ep ≠ true := ne_true_of_eq_false (validEp_eq_false hout)
    exact ⟨next_count (if_neg hep), next_count (if_neg hep), next_count (if_neg hep)⟩

/-! ## The transmit queue (R196, R197) -/

theorem txPop_cons (h : (s.endpoint e).txq = i :: rest) :
    s.txPop e = (some i, s.setEndpoint e { s.endpoint e with txq := rest }) := by
  rw [State.txPop, h]

theorem txPop_nil (h : (s.endpoint e).txq = []) : s.txPop e = (none, s) := by
  rw [State.txPop, h]

theorem exec_txqAppend {p : BitVec 16} (hlo : 1 ≤ e.toNat) (hhi : e.toNat ≤ s.cfg.nEp.toNat)
    (hq : s.pktQueued p.toNat = false) : exec (.txqAppend e p) s = .next (s.txAppend e p.toNat) := by
  simp [exec, execTxqAppend, isEndpoint_eq_true.mpr ⟨hlo, hhi⟩, hq]

theorem exec_txqPop (hlo : 1 ≤ e.toNat) (hhi : e.toNat ≤ s.cfg.nEp.toNat) :
    exec (.txqPop e) s = .next ((s.txPop e).2.setResult (.packet (s.txPop e).1)) :=
  if_pos (isEndpoint_eq_true.mpr ⟨hlo, hhi⟩)

/-- Settles O29: append puts the packet at the tail of a transmit queue; pop takes the head, if there is one. -/
theorem transmitQueue : Obligations.TransmitQueue := by
  refine ⟨fun s e p => exec_txqAppend, fun s e p rest hlo hhi hq => ?_, fun s e hlo hhi hq => ?_⟩
  · rw [exec_txqPop hlo hhi, txPop_cons hq]
    rfl
  · rw [exec_txqPop hlo hhi, txPop_nil hq]
    rfl

end Sys2Proof.Machine
end

section
/-! A waiting transmit queue means no bank is free (spec/43_bank_allocator.md R216 (a)): an invariant of every step. -/

namespace Sys2Proof.Machine

/-- Of the moves only the write of an endpoint's record and bus initialisation touch the records; the first is made
under the rule, the second leaves every queue empty. -/
theorem Move.keeps_txQueuesOk (s t : State) (h : Move s t) (hs : s.txQueuesOk) : t.txQueuesOk := by
  cases h with
  | endpoint e v hv =>
    intro f
    rw [State.endpoint_setEndpoint]
    split
    · exact hv (hs e)
    · exact hs f
  | init =>
    intro f
    rw [State.endpoint_def, State.busInit, Tab.get_fill]
    exact .inl rfl
  | _ => exact hs

/-- Settles O13: every move keeps the rule, and an armed word written to a slot touches no endpoint's record. -/
theorem stepKeepsTransmitQueueRule : Obligations.StepKeepsTransmitQueueRule := fun _ _ hs h =>
  step_keeps Move.keeps_txQueuesOk (fun _ _ _ _ _ _ hu => hu) hs h

end Sys2Proof.Machine
end

section
/-! The bank allocator (spec/43_bank_allocator.md): a submit and a completion as one record and at most one slot
written, TX.SUBMIT, TX.COMPLETE and ISO.SUBMIT with their checks, the tables, and the convergence of submits and
completions. -/

namespace Sys2Proof.Machine

variable {s t : State} {e : Ep} {ep : Byte} {b : Bank} {i : Nat} {p : BitVec 16}

/-! ## One record and one slot written -/

theorem setEndpoint_setEndpoint (s : State) (e : Ep) (v w : Endpoint) :
    (s.setEndpoint e v).setEndpoint e w = s.setEndpoint e w := by
  simp [State.setEndpoint, Tab.set]

theorem endpoint_setEndpoint_self (s : State) (e : Ep) (v : Endpoint) : (s.setEndpoint e v).endpoint e = v :=
  Tab.get_set_self ..

theorem endpoint_arm (s : State) (e : Ep) (d : Dir) (b : Bank) (n : BitVec 10) (tog : Toggle) (a : Word) (f : Ep) :
    (s.arm e d b n tog a).endpoint f = s.endpoint f := rfl

theorem sameEndpointsBut_setEndpoint (s : State) (e : Ep) (v : Endpoint) :
    SameEndpointsBut [e] s (s.setEndpoint e v) := fun _ hf =>
  Tab.get_set_ne _ _ fun h => hf (List.mem_singleton.mpr h.symm)

theorem sameSlotsBut_arm (s : State) (e : Ep) (d : Dir) (b : Bank) (n : BitVec 10) (tog : Toggle) (a : Word) :
    SameSlotsBut [slotOf e d b] s (s.arm e d b n tog a) := fun _ hk =>
  Tab.get_set_ne _ _ fun h => hk (List.mem_singleton.mpr h.symm)

/-- What a state differs in from one whose endpoint record and one transmit slot are written. -/
theorem changes_of_eq_arm {v : Endpoint} {n : BitVec 10} {tog : Toggle} {a : Word}
    (h : t = (s.setEndpoint e v).arm e .tx b n tog a) :
    t.slot (slotOf e .tx b) = ⟨armedWord n tog, a⟩ ∧ SameSlotsBut [slotOf e .tx b] s t ∧
      t.endpoint e = v ∧ SameEndpointsBut [e] s t ∧ t = { s with bdt := t.bdt, eps := t.eps } ∧ SameBytes s t := by
  subst h
  exact ⟨Tab.get_set_self .., sameSlotsBut_arm (s.setEndpoint e v) e .tx b n tog a, endpoint_setEndpoint_self s e v,
    sameEndpointsBut_setEndpoint s e v, rfl, fun _ => rfl⟩

/-! ## Submit and completion (R211 to R213) -/

/-- A submit on an endpoint with a free bank (R211, R212). -/
theorem submit_bind {nxt : TxState} (h : submitBank (s.endpoint e).txState = some (b, nxt)) (i : Nat) :
    s.submit e i = (s.setEndpoint e { s.endpoint e with txState := nxt }).arm e .tx b
      (BitVec.ofNat 10 (s.pkt i).len) b.toggle (s.bufAddr i) := by
  rw [State.submit, h]
  rfl

theorem submit_queue (h : submitBank (s.endpoint e).txState = none) (i : Nat) : s.submit e i = s.txAppend e i := by
  rw [State.submit, h]

/-- A completion with a packet queued (R213, Table A). -/
theorem completeTx_cons {rest : List Nat} (h : (s.endpoint e).txq = i :: rest) (b : Bank) :
    s.completeTx e b =
      (s.setEndpoint e { s.endpoint e with txq := rest, txState := tableA (s.endpoint e).txState b }).arm e .tx b
        (BitVec.ofNat 10 (s.pkt i).len) b.toggle (s.bufAddr i) := by
  rw [State.completeTx, txPop_cons h]
  simp only [State.setTxState, setEndpoint_setEndpoint, endpoint_setEndpoint_self]
  rfl

/-- A completion with nothing queued (R213, Table B). -/
theorem completeTx_nil (h : (s.endpoint e).txq = []) (b : Bank) :
    s.completeTx e b = s.setEndpoint e { s.endpoint e with txState := tableB (s.endpoint e).txState b } := by
  rw [State.completeTx, txPop_nil h]
  rfl

/-! ## TX.SUBMIT and TX.COMPLETE with their checks -/

theorem exec_txSubmit (hep : s.validEp ep = true) (hdisc : (s.endpoint (epOf ep)).discipline ≠ .iso)
    (hheld : s.pktHeld p.toNat = true) (hlen : (s.pkt p.toNat).len ≤ s.cfg.pktCap) :
    exec (.txSubmit ep p) s = .next ((s.setDiscipline (epOf ep) .packet).submit (epOf ep) p.toNat) := by
  simp [exec, execTxSubmit, hep, hdisc, hheld, Nat.not_lt.mpr hlen]

theorem exec_txComplete (hlo : 1 ≤ e.toNat) (hhi : e.toNat ≤ s.cfg.nEp.toNat) (b : Bank) :
    exec (.txComplete e b) s = .next (s.completeTx e b) := if_pos (isEndpoint_eq_true.mpr ⟨hlo, hhi⟩)

theorem endpoint_setDiscipline_self (s : State) (e : Ep) (d : Discipline) :
    (s.setDiscipline e d).endpoint e = { s.endpoint e with discipline := d } := endpoint_setEndpoint_self ..

/-- Noting the discipline changes nothing a submit looks at but the record itself. -/
theorem submit_setDiscipline_bind {nxt : TxState} (h : submitBank (s.endpoint e).txState = some (b, nxt))
    (d : Discipline) (i : Nat) :
    (s.setDiscipline e d).submit e i =
      (s.setEndpoint e { s.endpoint e with txState := nxt, discipline := d }).arm e .tx b
        (BitVec.ofNat 10 (s.pkt i).len) b.toggle (s.bufAddr i) := by
  have hbank : submitBank ((s.setDiscipline e d).endpoint e).txState = some (b, nxt) := by
    rw [endpoint_setDiscipline_self]
    exact h
  rw [submit_bind hbank, endpoint_setDiscipline_self, State.setDiscipline, setEndpoint_setEndpoint]
  rfl

theorem submit_setDiscipline_queue (h : submitBank (s.endpoint e).txState = none) (d : Discipline) (i : Nat) :
    (s.setDiscipline e d).submit e i =
      s.setEndpoint e { s.endpoint e with txq := (s.endpoint e).txq ++ [i], discipline := d } := by
  have hbank : submitBank ((s.setDiscipline e d).endpoint e).txState = none := by
    rw [endpoint_setDiscipline_self]
    exact h
  rw [submit_queue hbank, State.txAppend, endpoint_setDiscipline_self, State.setDiscipline, setEndpoint_setEndpoint]

/-- Settles O30: each of the four states names its bank and the next state, and the submit arms that bank's slot. -/
theorem txSubmitBindsFreeBank : Obligations.TxSubmitBindsFreeBank := by
  intro s ep p b nxt hlo hhi hdisc hheld hlen hstate
  have hbank : submitBank (s.endpoint (epOf ep)).txState = some (b, nxt) := by
    rcases hstate with ⟨hst, rfl, rfl⟩ | ⟨hst, rfl, rfl⟩ | ⟨hst, rfl, rfl⟩ | ⟨hst, rfl, rfl⟩
    all_goals exact congrArg submitBank hst
  exact ⟨_, exec_txSubmit (validEp_eq_true.mpr ⟨hlo, hhi⟩) hdisc hheld hlen,
    changes_of_eq_arm (submit_setDiscipline_bind hbank _ _)⟩

/-- Settles O31: with no free bank the packet joins the queue; the checks before that are passed or stop in turn. -/
theorem txSubmitQueuesOrStops : Obligations.TxSubmitQueuesOrStops := by
  refine ⟨fun s ep p hlo hhi hdisc hheld hlen hstate => ?_, fun s ep p hout => ?_, fun s ep p hlo hhi => ?_⟩
  · have hbank : submitBank (s.endpoint (epOf ep)).txState = none :=
      hstate.elim (congrArg submitBank) (congrArg submitBank)
    refine ⟨_, exec_txSubmit (validEp_eq_true.mpr ⟨hlo, hhi⟩) hdisc hheld hlen, ?_⟩
    rw [submit_setDiscipline_queue hbank]
    exact ⟨endpoint_setEndpoint_self .., sameEndpointsBut_setEndpoint s _ _, rfl, fun _ => rfl⟩
  · simp [exec, execTxSubmit, validEp_eq_false hout]
  · have hep : s.validEp ep = true := validEp_eq_true.mpr ⟨hlo, hhi⟩
    refine ⟨fun hiso => ?_, fun hdisc hheld => ?_, fun hdisc hheld hlong => ?_⟩
    · simp [exec, execTxSubmit, hep, epOf, hiso]
    · simp [exec, execTxSubmit, hep, epOf, hdisc, hheld]
    · simp [exec, execTxSubmit, hep, epOf, hdisc, hheld, hlong]

/-- Settles O32: the head of the queue goes to the bank that completed, or that bank is free. -/
theorem txCompleteBindsOrFrees : Obligations.TxCompleteBindsOrFrees := by
  refine ⟨fun s e b q rest hlo hhi hq => ?_, fun s e b hlo hhi hq => ?_⟩
  · exact ⟨_, exec_txComplete hlo hhi b, changes_of_eq_arm (completeTx_cons hq b)⟩
  · rw [exec_txComplete hlo hhi, completeTx_nil hq]
    rfl

/-! ## ISO.SUBMIT (R218, R220) -/

theorem appBuffer_eq_true {a : Word} {n : Nat} :
    s.appBuffer a n = true ↔ ∀ r ∈ s.cfg.blockRegions ++ s.storeSpans, spansApart (a.toNat, max n 1) r = true :=
  List.all_eq_true

theorem appBuffer_eq_false {a : Word} {n : Nat} {r : Nat × Nat} (hr : r ∈ s.cfg.blockRegions ++ s.storeSpans)
    (hmeet : spansApart (a.toNat, max n 1) r = false) : s.appBuffer a n = false :=
  List.all_eq_false.mpr ⟨r, hr, ne_true_of_eq_false hmeet⟩

theorem submitIso_setDiscipline (s : State) (e : Ep) (a : Word) (n : BitVec 10) (d : Discipline) :
    (s.setDiscipline e d).submitIso e a n =
      (s.setEndpoint e { s.endpoint e with isoBank := (s.endpoint e).isoBank.flip, discipline := d }).arm e .tx
        (s.endpoint e).isoBank n (s.endpoint e).isoBank.toggle a := by
  rw [← setEndpoint_setEndpoint s e { s.endpoint e with discipline := d }, State.submitIso,
    endpoint_setDiscipline_self]
  rfl

/-- The two checks left on an endpoint not driven with TX.SUBMIT: the end of the space, then the regions. -/
theorem exec_isoSubmit {a : Word} {n : BitVec 10} (hep : s.validEp ep = true)
    (hdisc : (s.endpoint (epOf ep)).discipline ≠ .packet) :
    exec (.isoSubmit ep a n) s =
      if 2 ^ 32 < a.toNat + n.toNat then .refused .pastBuffer
      else if !s.appBuffer a n.toNat then .refused .notApplicationBuffer
      else .next ((s.setDiscipline (epOf ep) .iso).submitIso (epOf ep) a n) := by
  rw [exec, execIsoSubmit, hep, Bool.not_true, if_neg Bool.false_ne_true, if_neg hdisc]

/-- Settles O34: past its checks ISO.SUBMIT arms the slot of `iso_bank` without looking at its owner and flips the
flag; before that it is ignored, or refused by the first check that fails. -/
theorem isoSubmitArmsFlaggedBank : Obligations.IsoSubmitArmsFlaggedBank := by
  refine ⟨fun s ep a n hlo hhi => ?_, fun s ep a n hout => ?_⟩
  · have hep : s.validEp ep = true := validEp_eq_true.mpr ⟨hlo, hhi⟩
    refine ⟨fun hdisc hspan hapart => ⟨_, ?_, changes_of_eq_arm (submitIso_setDiscipline s _ a n .iso)⟩,
      fun hpacket => ?_, fun hdisc hpast => ?_, fun r hr hdisc hspan hmeet => ?_⟩
    · rw [exec_isoSubmit hep hdisc, if_neg (Nat.not_lt.mpr hspan), appBuffer_eq_true.mpr hapart]
      rfl
    · simp [exec, execIsoSubmit, hep, epOf, hpacket]
    · rw [exec_isoSubmit hep hdisc, if_pos hpast]
    · rw [exec_isoSubmit hep hdisc, if_neg (Nat.not_lt.mpr hspan), appBuffer_eq_false hr hmeet]
      rfl
  · simp [exec, execIsoSubmit, validEp_eq_false hout]

/-! ## The tables (R214, R215, R221) -/

theorem next_bankState {u v : TxState} (h : u = v) :
    (.next (s.setResult (.bankState u)) : Out) = .next { s with env := { s.env with result := .bankState v } } := by
  rw [h]
  rfl

/-- Settles O33: the three functions compared with the tables at every state, bank and value of the parameter. -/
theorem bankTables : Obligations.BankTables := by
  refine fun s b => ⟨fun st => next_bankState ?_, fun st => next_bankState ?_, fun st => next_bankState ?_⟩
  · cases st <;> cases b <;> rfl
  · cases st <;> cases b <;> rfl
  · cases s.cfg.teardownMap <;> cases st <;> rfl

/-! ## Convergence (R217) -/

/-- Both banks free, `b` the next to be used. -/
def bothFreeFirst : Bank → TxState
  | .even => .bothFreeEvenFirst
  | .odd => .bothFreeOddFirst

/-- Bank `b` alone is free. -/
def onlyFree : Bank → TxState
  | .even => .evenFree
  | .odd => .oddFree

/-- No bank free, `b` the next to complete. -/
def noneFreeFirst : Bank → TxState
  | .even => .noneFreeEvenFirst
  | .odd => .noneFreeOddFirst

theorem submitBank_bothFreeFirst (b : Bank) : submitBank (bothFreeFirst b) = some (b, onlyFree b.flip) := by
  cases b <;> rfl

theorem submitBank_onlyFree (b : Bank) : submitBank (onlyFree b) = some (b, noneFreeFirst b.flip) := by
  cases b <;> rfl

theorem submitBank_noneFreeFirst (b : Bank) : submitBank (noneFreeFirst b) = none := by
  cases b <;> rfl

theorem tableA_noneFreeFirst (b : Bank) : tableA (noneFreeFirst b) b = noneFreeFirst b.flip := by
  cases b <;> rfl

theorem tableB_noneFreeFirst (b : Bank) : tableB (noneFreeFirst b) b = onlyFree b := by
  cases b <;> rfl

theorem tableB_onlyFree (b c : Bank) : tableB (onlyFree b) c = bothFreeFirst b := by
  cases b <;> rfl

theorem bank_flip_involutive : Function.Involutive Bank.flip := fun b => by cases b <;> rfl

/-- The transmit side of an endpoint: its bank state and its queue. -/
def TxSide (s : State) (e : Ep) (st : TxState) (q : List Nat) : Prop :=
  (s.endpoint e).txState = st ∧ (s.endpoint e).txq = q

theorem TxSide.submit_bind {st nxt : TxState} {q : List Nat} (h : TxSide s e st q)
    (hb : submitBank st = some (b, nxt)) (i : Nat) : TxSide (s.submit e i) e nxt q := by
  obtain ⟨rfl, rfl⟩ := h
  rw [Machine.submit_bind hb, TxSide, endpoint_arm, endpoint_setEndpoint_self]
  exact ⟨rfl, rfl⟩

theorem TxSide.submit_queue {st : TxState} {q : List Nat} (h : TxSide s e st q) (hb : submitBank st = none) (i : Nat) :
    TxSide (s.submit e i) e st (q ++ [i]) := by
  obtain ⟨rfl, rfl⟩ := h
  rw [Machine.submit_queue hb, TxSide, State.txAppend, endpoint_setEndpoint_self]
  exact ⟨rfl, rfl⟩

theorem TxSide.completeTx_cons {st : TxState} {q : List Nat} (h : TxSide s e st (i :: q)) (b : Bank) :
    TxSide (s.completeTx e b) e (tableA st b) q := by
  obtain ⟨rfl, hq⟩ := h
  rw [Machine.completeTx_cons hq, TxSide, endpoint_arm, endpoint_setEndpoint_self]
  exact ⟨rfl, rfl⟩

theorem TxSide.completeTx_nil {st : TxState} (h : TxSide s e st []) (b : Bank) :
    TxSide (s.completeTx e b) e (tableB st b) [] := by
  obtain ⟨rfl, hq⟩ := h
  rw [Machine.completeTx_nil hq, TxSide, endpoint_setEndpoint_self]
  exact ⟨rfl, hq⟩

/-- Submits on an endpoint with no free bank all wait. -/
theorem TxSide.submitAll_queue {st : TxState} {q : List Nat} (h : TxSide s e st q) (hb : submitBank st = none)
    (ps : List Nat) : TxSide (submitAll s e ps) e st (q ++ ps) := by
  induction ps generalizing s q with
  | nil => rwa [List.append_nil]
  | cons p ps ih =>
    rw [List.append_cons]
    exact ih (h.submit_queue hb p)

/-- With no free bank and `q` waiting, each completion of the bank that is next passes the turn on while it empties the
queue; the last two free the banks. -/
theorem TxSide.completeMany_waiting {q : List Nat} (h : TxSide s e (noneFreeFirst b) q) :
    TxSide (completeMany e (q.length + 2) b s) e (bothFreeFirst (Bank.flip^[q.length] b)) [] := by
  induction q generalizing s b with
  | nil =>
    have hone : TxSide (s.completeTx e b) e (onlyFree b) [] := tableB_noneFreeFirst b ▸ h.completeTx_nil b
    exact tableB_onlyFree b b.flip ▸ hone.completeTx_nil b.flip
  | cons i q ih => exact ih (tableA_noneFreeFirst b ▸ h.completeTx_cons b)

/-- From both banks free, `b` first: a submit alone takes `b` and its completion frees it again, the other bank now
first; two submits take both banks and the rest wait. -/
theorem TxSide.converges (h : TxSide s e (bothFreeFirst b) []) (ps : List Nat) :
    TxSide (completeMany e ps.length b (submitAll s e ps)) e (bothFreeFirst (Bank.flip^[ps.length] b)) [] := by
  match ps with
  | [] => exact h
  | [p] =>
    have hone := h.submit_bind (submitBank_bothFreeFirst b) p
    exact tableB_onlyFree b.flip b ▸ hone.completeTx_nil b
  | p :: p' :: ps =>
    have htwo := (h.submit_bind (submitBank_bothFreeFirst b) p).submit_bind (submitBank_onlyFree _) p'
    rw [bank_flip_involutive b] at htwo
    have hall := htwo.submitAll_queue (submitBank_noneFreeFirst b) ps
    have hturn : Bank.flip^[(p :: p' :: ps).length] b = Bank.flip^[ps.length] b :=
      congrArg Bank.flip^[ps.length] (bank_flip_involutive b)
    rw [hturn]
    exact hall.completeMany_waiting

theorem bothFreeFirst_iterate_flip (n : Nat) (b : Bank) :
    bothFreeFirst (Bank.flip^[n] b) = if n % 2 = 0 then bothFreeFirst b else bothFreeFirst b.flip := by
  split
  · next heven => rw [bank_flip_involutive.iterate_even (Nat.even_iff.mpr heven), id]
  · next hodd => rw [bank_flip_involutive.iterate_odd (Nat.odd_iff.mpr (by omega))]

theorem TxSide.converges_by_parity (h : TxSide s e (bothFreeFirst b) []) (ps : List Nat) :
    TxSide (completeMany e ps.length b (submitAll s e ps)) e
      (if ps.length % 2 = 0 then bothFreeFirst b else bothFreeFirst b.flip) [] :=
  bothFreeFirst_iterate_flip ps.length b ▸ h.converges ps

/-- Settles O35: convergence with EVEN first and with ODD first. -/
theorem submitsAndCompletionsConverge : Obligations.SubmitsAndCompletionsConverge := fun _ _ ps hq =>
  ⟨fun hst => (TxSide.converges_by_parity (b := .even) ⟨hst, hq⟩ ps).symm,
    fun hst => (TxSide.converges_by_parity (b := .odd) ⟨hst, hq⟩ ps).symm⟩

end Sys2Proof.Machine
end

section
/-! The transmit path of endpoint 0 (spec/44_control_transfer.md R256, R257, R260): one packet armed, the three shapes
of EP0.SEND, and the IN completion put together from its parts. -/

namespace Sys2Proof.Machine

variable {s t u : State} {a : Word} {n : Nat}

/-! ## Slots kept in sequence -/

theorem SameSlotsBut.refl (ks : List SlotIx) (s : State) : SameSlotsBut ks s s := fun _ _ => rfl

theorem SameSlotsBut.mono {ks ls : List SlotIx} (h : SameSlotsBut ks s t) (hsub : ks ⊆ ls) : SameSlotsBut ls s t :=
  fun k hk => h k (mt (@hsub k) hk)

theorem SameSlotsBut.trans {ks : List SlotIx} (h : SameSlotsBut ks s t) (h' : SameSlotsBut ks t u) :
    SameSlotsBut ks s u := fun k hk => (h' k hk).trans (h k hk)

theorem ep0Tx_mem (b : Bank) : slotOf 0 .tx b ∈ [slotOf 0 .tx .even, slotOf 0 .tx .odd] := by
  cases b <;> simp

/-- A change of one of the transmit slots of endpoint 0 is a change within both. -/
theorem SameSlotsBut.ep0Tx {b : Bank} (h : SameSlotsBut [slotOf 0 .tx b] s t) :
    SameSlotsBut [slotOf 0 .tx .even, slotOf 0 .tx .odd] s t :=
  h.mono (List.cons_subset.mpr ⟨ep0Tx_mem b, List.nil_subset _⟩)

theorem slotOf_flip_ne (b : Bank) : slotOf 0 .tx b ≠ slotOf 0 .tx b.flip := by
  cases b <;> decide

theorem toggle_flip_involutive : Function.Involutive Toggle.flip := fun t => by cases t <;> rfl

/-! ## EP0.TRANSMIT (R256) -/

theorem armedOne_ep0Transmit (s : State) (a : Word) (n : Nat) : ArmedOne s (s.ep0Transmit a n) a n := by
  obtain ⟨hslot, -, -, -, hsame⟩ := ep0Transmit_spec s a n
  exact ⟨hslot, hsame, rfl⟩

/-- The command past its checks, or the refusal of the first that fails. -/
theorem exec_ep0Transmit_checks (s : State) (a : Word) (n : BitVec 10) :
    (n.toNat ≤ s.cfg.ep0Size → s.ep0.transferOpen = true → s.fitsBuffer a n.toNat = true →
      exec (.ep0Transmit a n) s = .next (s.ep0Transmit a n.toNat)) ∧
    (s.cfg.ep0Size < n.toNat → exec (.ep0Transmit a n) s = .refused .ep0TooLong) ∧
    (n.toNat ≤ s.cfg.ep0Size → s.ep0.transferOpen = false →
      exec (.ep0Transmit a n) s = .refused .noTransferOpen) ∧
    (n.toNat ≤ s.cfg.ep0Size → s.ep0.transferOpen = true → s.fitsBuffer a n.toNat = false →
      exec (.ep0Transmit a n) s = .refused .pastBuffer) := by
  have hexec : exec (.ep0Transmit a n) s = execEp0Transmit a n s := rfl
  rw [hexec, execEp0Transmit]
  refine ⟨fun hn hopen hfits => ?_, fun hn => if_pos hn, fun hn hopen => ?_, fun hn hopen hfits => ?_⟩
  all_goals rw [if_neg (Nat.not_lt.mpr hn), hopen]
  · rw [hfits]; rfl
  · rfl
  · rw [hfits]; rfl

/-! ## EP0.SEND (R257) -/

theorem endsReply_eq_true {c : Config} {left n : Nat} : endsReply c left n = true ↔ left = 0 ∧ n < c.ep0Size := by
  simp [endsReply]

/-- A longer reply fills the first bank and goes on to the second. -/
theorem ep0SendClamped_full (h : s.cfg.ep0Size ≤ n) :
    s.ep0SendClamped a n = (s.ep0Transmit a s.cfg.ep0Size).ep0SendSecond (a + BitVec.ofNat 32 s.cfg.ep0Size)
      (n - s.cfg.ep0Size) := by
  rw [State.ep0SendClamped, Nat.min_eq_right h]
  exact if_neg fun hend => Nat.lt_irrefl _ (endsReply_eq_true.mp hend).2

theorem ep0SendSecond_short (h : n < s.cfg.ep0Size) : s.ep0SendSecond a n = s.ep0Transmit a n := by
  rw [State.ep0SendSecond, Nat.min_eq_left h.le]
  exact if_pos (endsReply_eq_true.mpr ⟨Nat.sub_self n, h⟩)

theorem ep0SendSecond_full (h : s.cfg.ep0Size ≤ n) :
    s.ep0SendSecond a n = (s.ep0Transmit a s.cfg.ep0Size).setRemainder (some (a + BitVec.ofNat 32 s.cfg.ep0Size))
      (n - s.cfg.ep0Size) := by
  rw [State.ep0SendSecond, Nat.min_eq_right h]
  exact if_neg fun hend => Nat.lt_irrefl _ (endsReply_eq_true.mp hend).2

/-- Whatever the second bank leaves over, its slot holds the next chunk, and no other slot changes. -/
theorem ep0SendSecond_slots (s : State) (a : Word) (n : Nat) :
    (s.ep0SendSecond a n).slot (slotOf 0 .tx s.ep0.txBank) =
      ⟨armedWord (BitVec.ofNat 10 (min n s.cfg.ep0Size)) s.ep0.txToggle, a⟩ ∧
    SameSlotsBut [slotOf 0 .tx s.ep0.txBank] s (s.ep0SendSecond a n) := by
  rcases Nat.lt_or_ge n s.cfg.ep0Size with h | h
  · obtain ⟨hslot, hsame, -⟩ := armedOne_ep0Transmit s a n
    rw [ep0SendSecond_short h, Nat.min_eq_left h.le]
    exact ⟨hslot, hsame⟩
  · obtain ⟨hslot, hsame, -⟩ := armedOne_ep0Transmit s a s.cfg.ep0Size
    rw [ep0SendSecond_full h, Nat.min_eq_right h]
    exact ⟨hslot, hsame⟩

/-- A reply of a full packet and more: both banks armed in order, and none elsewhere. -/
theorem ep0SendClamped_slots (h : s.cfg.ep0Size ≤ n) :
    (s.ep0SendClamped a n).slot (slotOf 0 .tx s.ep0.txBank) =
      ⟨armedWord (BitVec.ofNat 10 s.cfg.ep0Size) s.ep0.txToggle, a⟩ ∧
    (s.ep0SendClamped a n).slot (slotOf 0 .tx s.ep0.txBank.flip) =
      ⟨armedWord (BitVec.ofNat 10 (min (n - s.cfg.ep0Size) s.cfg.ep0Size)) s.ep0.txToggle.flip,
        a + BitVec.ofNat 32 s.cfg.ep0Size⟩ ∧
    SameSlotsBut [slotOf 0 .tx .even, slotOf 0 .tx .odd] s (s.ep0SendClamped a n) := by
  obtain ⟨hfirst, hsame, -⟩ := armedOne_ep0Transmit s a s.cfg.ep0Size
  obtain ⟨hsecond, hsame'⟩ := ep0SendSecond_slots (s.ep0Transmit a s.cfg.ep0Size)
    (a + BitVec.ofNat 32 s.cfg.ep0Size) (n - s.cfg.ep0Size)
  rw [ep0SendClamped_full h]
  refine ⟨?_, hsecond, hsame.ep0Tx.trans hsame'.ep0Tx⟩
  rw [hsame' _ fun hmem => slotOf_flip_ne _ (List.mem_singleton.mp hmem), hfirst]

/-- Both banks used, the toggle and the bank are back where they were. -/
theorem ep0SendClamped_ep0 (h : s.cfg.ep0Size ≤ n) :
    (s.ep0SendClamped a n).ep0 = if n < 2 * s.cfg.ep0Size then s.ep0 else { s.ep0 with
      txPtr := some (a + BitVec.ofNat 32 s.cfg.ep0Size + BitVec.ofNat 32 s.cfg.ep0Size)
      txLen := n - 2 * s.cfg.ep0Size } := by
  have htwice : ∀ (b : Word) (m : Nat), ((s.ep0Transmit a s.cfg.ep0Size).ep0Transmit b m).ep0 = s.ep0 := fun b m => by
    have htog := toggle_flip_involutive s.ep0.txToggle
    have hbank := bank_flip_involutive s.ep0.txBank
    calc ((s.ep0Transmit a s.cfg.ep0Size).ep0Transmit b m).ep0
        = { s.ep0 with txToggle := s.ep0.txToggle.flip.flip, txBank := s.ep0.txBank.flip.flip } := rfl
      _ = s.ep0 := by rw [htog, hbank]
  rw [ep0SendClamped_full h]
  split
  · next hshort =>
    rw [ep0SendSecond_short (s := s.ep0Transmit a s.cfg.ep0Size) (by change _ < s.cfg.ep0Size; omega), htwice]
  · next hlong =>
    rw [ep0SendSecond_full (s := s.ep0Transmit a s.cfg.ep0Size) (by change s.cfg.ep0Size ≤ _; omega)]
    rw [State.setRemainder, htwice, show n - 2 * s.cfg.ep0Size = n - s.cfg.ep0Size - s.cfg.ep0Size by omega]
    rfl

theorem ep0Send_sameBytes (s : State) (a : Word) (n : Nat) : SameBytes s (s.ep0Send a n) := fun b => by
  rw [State.byte_def, State.byte_def, ep0Send_frame]

/-- Settles O44: the command past its checks or refused by the first that fails; a reply of one packet, or of two with
what is left over. -/
theorem ep0TransmitAndSend : Obligations.Ep0TransmitAndSend := by
  refine ⟨fun s a n hn hopen hfits => ?_, fun s a n => (exec_ep0Transmit_checks s a n).2, ?_⟩
  · exact ⟨_, (exec_ep0Transmit_checks s a n).1 hn hopen hfits, armedOne_ep0Transmit s a _, rfl, fun _ => rfl⟩
  · rintro s a len n rfl
    refine ⟨_, rfl, ep0Send_frame s a _, ep0Send_sameBytes s a _, fun hshort => ?_, fun hfull => ?_⟩
    · rw [ep0Send_short s a _ hshort]
      exact armedOne_ep0Transmit s a _
    · obtain ⟨hfirst, hsecond, hsame⟩ := ep0SendClamped_slots (a := a) hfull
      have hep0 := ep0SendClamped_ep0 (a := a) hfull
      exact ⟨hfirst, hsecond, hsame, fun hlt => hep0.trans (if_pos hlt),
        fun hge => hep0.trans (if_neg (Nat.not_lt.mpr hge))⟩

/-! ## EP0.IN (R260, R265, R268) -/

theorem writeCtl_resumed (s : State) : s.writeCtl 0x01 = resumed s := by
  simp [State.writeCtl, resumed]

theorem applyAddress_eq (s : State) :
    s.applyAddress = { s with
      regs := if s.ep0.addrPending then { s.regs with addr := s.ep0.addrLatch } else s.regs
      ep0 := { s.ep0 with addrPending := false } } := by
  unfold State.applyAddress
  split
  · rfl
  · next h => rw [← Bool.eq_false_iff.mpr h]

theorem afterIn_eq (p : Phase) : p.afterIn = if p = .statusStage then .idle else p := by
  cases p <;> rfl

theorem drainRemainder_none (h : s.ep0.txPtr = none) : s.drainRemainder = s := by
  rw [State.drainRemainder, h]

/-- The next chunk is armed; the pointer stays while bytes are left, or a zero-length packet after a full one. -/
theorem drainRemainder_some {p : Word} (h : s.ep0.txPtr = some p) (hn : n = min s.ep0.txLen s.cfg.ep0Size) :
    s.drainRemainder = (s.ep0Transmit p n).setRemainder
      (if s.ep0.txLen - n > 0 ∨ n = s.cfg.ep0Size then some (p + BitVec.ofNat 32 n) else none)
      (s.ep0.txLen - n) := by
  subst hn
  simp only [State.drainRemainder, h, endsReply_eq_true]
  split
  · next hend => rw [if_neg (by omega)]
  · next hend => rw [if_pos (by omega)]

/-- Settles O45: the remainder is drained, the address applied, the phase and the model's record set, each on its own
part of the state. -/
theorem ep0InDrainsAndApplies : Obligations.Ep0InDrainsAndApplies := by
  intro s k o ho
  have hopen : s.openAfterIn = o := by rw [ho, Bool.and_assoc]; rfl
  have hin : s.ep0In = { s.drainRemainder with
      regs := if s.drainRemainder.ep0.addrPending then
        { s.drainRemainder.regs with addr := s.drainRemainder.ep0.addrLatch } else s.drainRemainder.regs
      ep0 := { s.drainRemainder.ep0 with
        addrPending := false, transferOpen := o
        phase := if s.ep0.phase = .statusStage then .idle else s.ep0.phase } } := by
    rw [State.ep0In, applyAddress_eq, hopen, afterIn_eq]
    rfl
  refine ⟨s.ep0In, rfl, congrArg Host.Outcome.next (writeCtl_resumed _), ?_⟩
  rw [hin]
  cases hp : s.ep0.txPtr with
  | none =>
    rw [drainRemainder_none hp]
    exact ⟨rfl, rfl, fun _ => rfl, fun _ => ⟨rfl, rfl⟩, fun p n hsome => absurd hsome (by simp)⟩
  | some p =>
    rw [drainRemainder_some hp rfl]
    refine ⟨rfl, rfl, fun _ => rfl, fun hnone => absurd hnone (by simp), ?_⟩
    rintro q n hsome rfl
    cases hsome
    obtain ⟨hslot, hsame, -⟩ := armedOne_ep0Transmit s p (min s.ep0.txLen s.cfg.ep0Size)
    exact ⟨hslot, hsame, rfl⟩

end Sys2Proof.Machine
end

section
/-! The request handlers but SET_CONFIGURATION and the hooks (spec/44_control_transfer.md R246, R248 to R253): what a
reply stores and arms, which descriptor is found, and the one halt bit of an endpoint. -/

namespace Sys2Proof.Machine

variable {s t : State} {a : Word} {n : Nat} {bs : List Byte}

/-! ## Replies -/

theorem SameBytes.holdsBytes (h : SameBytes s t) (hs : HoldsBytes s a bs) : HoldsBytes t a bs := fun k hk =>
  (h _).trans (hs k hk)

theorem SameBytes.outside {u : State} (h : SameBytes t u) (hs : SameBytesOutside a n s t) : SameBytesOutside a n s u :=
  fun b hb => (h b).trans (hs b hb)

theorem ep0Send_sameSlots (s : State) (a : Word) (n : Nat) :
    SameSlotsBut [slotOf 0 .tx .even, slotOf 0 .tx .odd] s (s.ep0Send a n) := by
  rcases Nat.lt_or_ge (min n s.ep0.setup.wLength.toNat) s.cfg.ep0Size with h | h
  · rw [ep0Send_short s a n h]
    exact (armedOne_ep0Transmit s a _).2.1.ep0Tx
  · exact (ep0SendClamped_slots h).2.2

/-- A reply's bytes, memory elsewhere, the slots it may arm, and the one packet of a short one (R257). -/
theorem reply_spec (hmem : s.memCanonical) (hspan : s.cfg.replyAddr.toNat + bs.length ≤ 2 ^ 32) :
    HoldsBytes (s.reply bs) s.cfg.replyAddr bs ∧ SameBytesOutside s.cfg.replyAddr bs.length s (s.reply bs) ∧
      SameSlotsBut [slotOf 0 .tx .even, slotOf 0 .tx .odd] s (s.reply bs) ∧
      (min bs.length s.ep0.setup.wLength.toNat < s.cfg.ep0Size →
        ArmedOne s (s.reply bs) s.cfg.replyAddr (min bs.length s.ep0.setup.wLength.toNat)) ∧
      s.reply bs = { s with bdt := (s.reply bs).bdt, ep0 := (s.reply bs).ep0, mem := (s.reply bs).mem } := by
  have hsend : SameBytes (s.store s.cfg.replyAddr bs) (s.reply bs) := ep0Send_sameBytes _ _ _
  refine ⟨hsend.holdsBytes (holdsBytes_store hmem hspan), hsend.outside (sameBytesOutside_store hmem hspan),
    ep0Send_sameSlots (s.store s.cfg.replyAddr bs) _ _, fun hshort => ?_, ?_⟩
  · rw [State.reply, ep0Send_short (s.store s.cfg.replyAddr bs) _ _ hshort]
    exact armedOne_ep0Transmit (s.store s.cfg.replyAddr bs) _ _
  · rw [State.reply, ep0Send_frame]
    rfl

/-- A reply of at most two bytes is one packet, the smallest `EP0_SIZE` being 8 (spec/00_scope.md R5). -/
theorem reply_short (hmem : s.memCanonical) (hsize : 8 ≤ s.cfg.ep0Size) (hspan : s.cfg.replyAddr.toNat + 2 ≤ 2 ^ 32)
    (hlen : bs.length ≤ 2) :
    HoldsBytes (s.reply bs) s.cfg.replyAddr bs ∧ SameBytesOutside s.cfg.replyAddr bs.length s (s.reply bs) ∧
      ArmedOne s (s.reply bs) s.cfg.replyAddr (min bs.length s.ep0.setup.wLength.toNat) ∧
      s.reply bs = { s with bdt := (s.reply bs).bdt, ep0 := (s.reply bs).ep0, mem := (s.reply bs).mem } := by
  obtain ⟨hbytes, hout, -, harmed, hframe⟩ := reply_spec (bs := bs) hmem (by omega)
  exact ⟨hbytes, hout, harmed (by omega), hframe⟩

theorem statusIn_eq (h : 0 < s.cfg.ep0Size) : s.statusIn = s.ep0Transmit s.cfg.replyAddr 0 := by
  rw [State.statusIn, ep0Send_short s _ 0 (by rwa [Nat.zero_min]), Nat.zero_min]

/-- The address of the captured request is latched, to be applied by the status stage (R246). -/
def State.latchAddress (s : State) : State :=
  { s with ep0 := { s.ep0 with addrLatch := s.ep0.setup.deviceAddress, addrPending := true } }

theorem setAddress_eq (h : 0 < s.cfg.ep0Size) : s.setAddress = s.latchAddress.ep0Transmit s.cfg.replyAddr 0 :=
  statusIn_eq (s := s.latchAddress) h

/-! ## Dispatch by how the request ended (R243) -/

theorem dispatchRequest_served (h : s.runRequest = .served t) :
    s.dispatchRequest = .next { t with ep0 := { t.ep0 with
      phase := if s.ep0.setup.wLength = 0 then .statusStage else .dataStage } } := by
  rw [State.dispatchRequest, h]
  rfl

theorem dispatchRequest_stalled (h : s.runRequest = .stalled t) :
    s.dispatchRequest = .next { t with ep0 := { t.ep0 with phase := .idle, transferOpen := false } } := by
  rw [State.dispatchRequest, h]
  rfl

theorem runRequest_setAddress (hb : s.ep0.setup.bRequest = 0x05) (hbm : s.ep0.setup.bmRequestType = 0x00) :
    s.runRequest = .served s.setAddress := by
  have hrow : s.request = .setAddress := by rw [State.request, hb, hbm]; rfl
  rw [State.runRequest, hrow]

/-- Settles O48: two replies of fixed bytes, and the address latched before a zero-length IN. -/
theorem fixedReplies : Obligations.FixedReplies := by
  refine ⟨fun s hmem hsize hspan => ⟨?_, ?_⟩, fun s hsize => ?_⟩
  · exact ⟨_, rfl, reply_short (bs := [0, 0]) hmem hsize hspan (by decide)⟩
  · exact ⟨_, rfl, reply_short (bs := [s.ep0.configuration]) hmem hsize hspan (Nat.le_succ 1)⟩
  · have hdispatch hb hbm := dispatchRequest_served (runRequest_setAddress (s := s) hb hbm)
    rw [setAddress_eq hsize] at hdispatch
    obtain ⟨hslot, hsame, -⟩ := armedOne_ep0Transmit s.latchAddress s.cfg.replyAddr 0
    exact ⟨_, congrArg Host.Outcome.next (setAddress_eq hsize), hslot, hsame, rfl, fun _ => rfl, hdispatch⟩

/-! ## GET_DESCRIPTOR (R249) -/

theorem findDescriptor_first {pre post : List DescEntry} {e : DescEntry} (hlist : s.cfg.descList = pre ++ e :: post)
    (hpre : ∀ d ∈ pre, d.wValue ≠ s.ep0.setup.wValue ∨ d.wIndex ≠ s.ep0.setup.wIndex)
    (hvalue : e.wValue = s.ep0.setup.wValue) (hindex : e.wIndex = s.ep0.setup.wIndex) :
    s.findDescriptor = some e := by
  refine List.find?_eq_some_iff_append.mpr ⟨by simp [hvalue, hindex], pre, post, hlist, fun d hd => ?_⟩
  have hne := hpre d hd
  simpa [imp_iff_not_or] using hne

theorem findDescriptor_none
    (h : ∀ d ∈ s.cfg.descList, d.wValue ≠ s.ep0.setup.wValue ∨ d.wIndex ≠ s.ep0.setup.wIndex) :
    s.findDescriptor = none := by
  refine List.find?_eq_none.mpr fun d hd => ?_
  have hne := h d hd
  simpa [imp_iff_not_or] using hne

/-- Settles O49: the search of `DESC_LIST` stops at the first match, whose length EP0.SEND is given. -/
theorem getDescriptorSendsFirstMatch : Obligations.GetDescriptorSendsFirstMatch := by
  refine ⟨fun s bm pre post e len hlist hpre hvalue hindex hlen hbound => ?_, fun s bm hnone => ?_⟩
  · have hserved : s.getDescriptor = .served (s.ep0Send e.addr len) := by
      rw [State.getDescriptor, findDescriptor_first hlist hpre hvalue hindex, hlen]
      rfl
    refine ⟨s.ep0Send e.addr len, ?_, ?_⟩
    · rw [exec, execReqGetDescriptor, hserved]
      rfl
    · rw [exec, execEp0Send, BitVec.toNat_ofNat, Nat.mod_eq_of_lt hbound]
  · rw [exec, execReqGetDescriptor, State.getDescriptor, findDescriptor_none hnone]
    rfl

/-! ## GET_STATUS(endpoint), CLEAR_FEATURE, SET_FEATURE (R244, R245, R251 to R253) -/

variable {i : Nat} {malformed : Bool} {k : Ep → ReqOut}

theorem indexed_stalled (h : s.cfg.eCmp < i ∨ malformed = true) : indexed s i malformed k = raiseStall0 s :=
  if_pos (by simpa using h)

theorem indexed_fault (hcmp : i ≤ s.cfg.eCmp) (hi : s.cfg.nEp.toNat < i) :
    indexed s i false k = .fault .endpointIndexOutOfRange := by
  simp [indexed, Nat.not_lt.mpr hcmp, hi]

theorem indexed_ok (hcmp : i ≤ s.cfg.eCmp) (hi : i ≤ s.cfg.nEp.toNat) :
    indexed s i false k = k (BitVec.ofNat 4 i) := by
  simp [indexed, Nat.not_lt.mpr hcmp, Nat.not_lt.mpr hi]

/-- A register whose reserved bits are 0 is its named bits (spec/30_encoding.md R107). -/
theorem and_namedBits {x : Byte} (h : x &&& 0xE0 = 0) : x &&& 0x1F = x :=
  calc x &&& 0x1F = (x &&& 0x1F) ||| (x &&& 0xE0) := by rw [h]; exact BitVec.or_zero.symm
    _ = x &&& (0x1F ||| 0xE0) := BitVec.and_or_distrib_left.symm
    _ = x := BitVec.and_allOnes

/-- The halt bit is written; the other bits, and the reserved ones as 0, stay. -/
theorem endptReg_setHalt {e : Ep} (h : s.endptReg e &&& 0xE0 = 0) (v : Bool) :
    (s.setHalt e v).endptReg e = if v then s.endptReg e ||| 0x02 else s.endptReg e &&& 0xFD := by
  rw [State.setHalt, State.endptReg_setEndptReg, if_pos rfl]
  refine and_namedBits ?_
  cases v
  · change s.endptReg e &&& 0xFD &&& 0xE0 = 0
    rw [BitVec.and_assoc]
    exact h
  · change (s.endptReg e ||| 0x02) &&& 0xE0 = 0
    rw [BitVec.and_or_distrib_right, h]
    rfl

theorem featureEp_stalled (h : s.cfg.eCmp < s.featureIndex ∨ s.ep0.setup.wValue ≠ 0) (v : Bool) :
    (s.featureEp v).toOut = .next (stalledEp0 s) := by
  rw [State.featureEp, indexed_stalled (h.imp_right bne_iff_ne.mpr)]
  rfl

theorem featureEp_fault (hcmp : s.featureIndex ≤ s.cfg.eCmp) (hvalue : s.ep0.setup.wValue = 0)
    (hi : s.cfg.nEp.toNat < s.featureIndex) (v : Bool) :
    (s.featureEp v).toOut = .fault .endpointIndexOutOfRange := by
  rw [State.featureEp, hvalue, bne_self_eq_false, indexed_fault hcmp hi]
  rfl

/-- The pair past its checks: the halt bit of one register, and a zero-length IN. -/
theorem featureEp_ok {e : Ep} (he : e = BitVec.ofNat 4 s.featureIndex) (hcmp : s.featureIndex ≤ s.cfg.eCmp)
    (hvalue : s.ep0.setup.wValue = 0) (hi : s.featureIndex ≤ s.cfg.nEp.toNat) (hsize : 0 < s.cfg.ep0Size)
    (hreserved : s.endptReg e &&& 0xE0 = 0) (v : Bool) :
    ∃ t, (s.featureEp v).toOut = .next t ∧
      t.endptReg e = (if v then s.endptReg e ||| 0x02 else s.endptReg e &&& 0xFD) ∧
      SameEndptBut [e] s t ∧ ArmedOne s t s.cfg.replyAddr 0 ∧
      t = { s with regs := { s.regs with endpt := t.regs.endpt }, bdt := t.bdt, ep0 := t.ep0 } ∧ SameBytes s t := by
  subst he
  refine ⟨(s.setHalt (BitVec.ofNat 4 s.featureIndex) v).ep0Transmit s.cfg.replyAddr 0, ?_,
    endptReg_setHalt hreserved v, fun f hf => Tab.get_set_ne _ _ fun h => hf (List.mem_singleton.mpr h.symm),
    armedOne_ep0Transmit (s.setHalt _ v) _ _, rfl, fun _ => rfl⟩
  rw [State.featureEp, hvalue, bne_self_eq_false, indexed_ok hcmp hi, statusIn_eq (s := s.setHalt _ v) hsize]
  rfl

/-- Settles O50: the checks of the index in turn; past them one halt bit is reported or written. -/
theorem endpointRequests : Obligations.EndpointRequests := by
  refine ⟨?_, ?_⟩
  · rintro s i rfl
    have hexec : exec .reqGetStatusEp s = (indexed s (s.ep0.setup.wIndex &&& s.cfg.statusIndexMask).toNat false
      fun e => .served (s.reply [s.haltByte e, 0])).toOut := rfl
    rw [hexec]
    refine ⟨fun hcmp => ?_, fun hcmp hi => ?_, fun hcmp hi hmem hsize hspan => ?_⟩
    · rw [indexed_stalled (.inl hcmp)]
      rfl
    · rw [indexed_fault hcmp hi]
      rfl
    · rw [indexed_ok hcmp hi]
      exact ⟨_, rfl, reply_short (bs := [s.haltByte _, 0]) hmem hsize hspan (Nat.le_refl 2)⟩
  · rintro s i rfl
    refine ⟨fun h => ⟨featureEp_stalled h false, featureEp_stalled h true⟩, fun hcmp hvalue hi =>
      ⟨featureEp_fault hcmp hvalue hi false, featureEp_fault hcmp hvalue hi true⟩,
      fun hcmp hvalue hi hsize hreserved => ⟨?_, ?_⟩⟩
    · exact featureEp_ok rfl hcmp hvalue hi hsize hreserved false
    · exact featureEp_ok rfl hcmp hvalue hi hsize hreserved true

end Sys2Proof.Machine
end

section
/-! Dispatch of the captured request and the SETUP completion (spec/44_control_transfer.md R240 to R243): the request
decoded is the one run; what every served or stalled request but SET_CONFIGURATION and a hook's leaves unchanged. -/

namespace Sys2Proof.Machine

variable {s t : State}

/-! ## The decoded request is the one run (R243) -/

/-- The instruction of the captured code is its handler as a step. -/
theorem exec_decodeReq (s : State) :
    exec (decodeReq s.cfg (s.ep0.setup.bRequest ++ s.ep0.setup.bmRequestType)) s = s.runRequest.toOut := by
  simp only [decodeReq, BitVec.extractLsb'_append_eq_left, BitVec.extractLsb'_append_eq_right, State.runRequest,
    State.request]
  cases classifyRequest s.cfg s.ep0.setup.bRequest s.ep0.setup.bmRequestType with
  | setConfiguration =>
    change s.setConfiguration = (ReqOut.after s.setConfiguration .served).toOut
    cases s.setConfiguration <;> rfl
  | _ => rfl

/-- A stalled request is one whose handler raised Stall0. -/
def StallsEp0 (r : ReqOut) : Prop := ∀ t, r = .stalled t → t.endptReg 0 = 0x0F

theorem StallsEp0.stall (s : State) : StallsEp0 (raiseStall0 s) := by
  intro t ht
  injection ht with ht
  exact ht ▸ (stallEp0_spec s).1

theorem StallsEp0.served (s : State) : StallsEp0 (.served s) := fun _ h => by injection h

theorem StallsEp0.fault (f : Fault) : StallsEp0 (.fault f) := fun _ h => by injection h

theorem StallsEp0.refused (r : Refusal) : StallsEp0 (.refused r) := fun _ h => by injection h

theorem StallsEp0.after {k : State → ReqOut} (o : Out) (hk : ∀ t, StallsEp0 (k t)) :
    StallsEp0 (ReqOut.after o k) := by
  cases o with
  | next t => exact hk t
  | fault f => exact .fault f
  | refused r => exact .refused r

theorem stallsEp0_indexed {i : Nat} {m : Bool} {k : Ep → ReqOut} (hk : ∀ e, StallsEp0 (k e)) :
    StallsEp0 (indexed s i m k) := by
  unfold indexed
  split
  · exact .stall s
  · split
    · exact .fault _
    · exact hk _

theorem stallsEp0_classHooks (n : Nat) (s : State) : StallsEp0 (classHooks n s) := by
  induction n generalizing s with
  | zero => exact .stall s
  | succ n ih =>
    refine .after _ fun t => .after _ fun u => ?_
    split
    · exact ih u
    · split
      · exact .refused _
      · exact .served _
    · exact .served _

theorem stallsEp0_runRequest (s : State) : StallsEp0 s.runRequest := by
  unfold State.runRequest
  split
  · exact .served _
  · exact stallsEp0_indexed fun _ => .served _
  · exact stallsEp0_indexed fun _ => .served _
  · exact stallsEp0_indexed fun _ => .served _
  · exact .served _
  · unfold State.getDescriptor
    split
    · exact .served _
    · exact .stall s
  · exact .served _
  · exact .after _ .served
  · exact stallsEp0_classHooks _ s

variable {r : ReqOut}

theorem toOut_eq_next : r.toOut = .next t ↔ r = .served t ∨ r = .stalled t := by
  cases r <;> simp [ReqOut.toOut]

theorem toOut_eq_fault {f : Fault} : r.toOut = .fault f ↔ r = .fault f := by
  cases r <;> simp [ReqOut.toOut]

theorem toOut_eq_refused {q : Refusal} : r.toOut = .refused q ↔ r = .refused q := by
  cases r <;> simp [ReqOut.toOut]

theorem dispatchRequest_fault {f : Fault} (h : s.runRequest = .fault f) : s.dispatchRequest = .fault f := by
  rw [State.dispatchRequest, h]

theorem dispatchRequest_refused {q : Refusal} (h : s.runRequest = .refused q) : s.dispatchRequest = .refused q := by
  rw [State.dispatchRequest, h]

/-- Settles O5: the dispatcher's four answers, one for each way the decoded request ends. -/
theorem dispatchRunsDecodedRequest : Obligations.DispatchRunsDecodedRequest := by
  rintro s i rfl
  rw [exec_decodeReq]
  exact ⟨fun t ht => toOut_eq_next.mp ht,
    fun t ht => ⟨toOut_eq_next.mpr (.inr ht), stallsEp0_runRequest s t ht, dispatchRequest_stalled ht⟩,
    fun t ht => ⟨toOut_eq_next.mpr (.inl ht), dispatchRequest_served ht⟩,
    fun f hf => dispatchRequest_fault (toOut_eq_fault.mp hf),
    fun q hq => dispatchRequest_refused (toOut_eq_refused.mp hq)⟩

/-! ## What an answered request leaves unchanged -/

@[simp] theorem descTog_armedWord (n : BitVec 10) (t : Toggle) : descTog (armedWord n t) = t := descTog_armedForm ..

/-- The request of `s` was answered and `t` is the state: `pending` is whether an address waits. -/
structure Replied (s t : State) (pending : Bool) : Prop where
  setup : t.ep0.setup = s.ep0.setup
  configuration : t.ep0.configuration = s.ep0.configuration
  addrPending : t.ep0.addrPending = pending
  slots : SameSlotsBut [slotOf 0 .tx .even, slotOf 0 .tx .odd] s t
  first : t.slot (slotOf 0 .tx s.ep0.txBank) = s.slot (slotOf 0 .tx s.ep0.txBank) ∨
    descTog (t.slot (slotOf 0 .tx s.ep0.txBank)).desc = s.ep0.txToggle
  bytes : s.memCanonical → s.cfg.replyAddr.toNat + 2 ≤ 2 ^ 32 → SameBytesOutside s.cfg.replyAddr 2 s t
  frame : t = { s with regs := { s.regs with endpt := t.regs.endpt }, bdt := t.bdt, ep0 := t.ep0, mem := t.mem }

/-- The toggle of a reply's first packet is the current one (R257). -/
theorem ep0Send_first (s : State) (a : Word) (n : Nat) :
    descTog ((s.ep0Send a n).slot (slotOf 0 .tx s.ep0.txBank)).desc = s.ep0.txToggle := by
  rcases Nat.lt_or_ge (min n s.ep0.setup.wLength.toNat) s.cfg.ep0Size with h | h
  · rw [ep0Send_short s a n h, (armedOne_ep0Transmit s a _).1, descTog_armedWord]
  · rw [State.ep0Send, (ep0SendClamped_slots h).1, descTog_armedWord]

/-- EP0.SEND writes the transmit part of the control-transfer context only. -/
theorem ep0Send_ep0 (s : State) (a : Word) (n : Nat) :
    (s.ep0Send a n).ep0 = { s.ep0 with
      txPtr := (s.ep0Send a n).ep0.txPtr, txLen := (s.ep0Send a n).ep0.txLen
      txToggle := (s.ep0Send a n).ep0.txToggle, txBank := (s.ep0Send a n).ep0.txBank } := by
  rcases Nat.lt_or_ge (min n s.ep0.setup.wLength.toNat) s.cfg.ep0Size with h | h
  · rw [ep0Send_short s a n h]
    rfl
  · rw [State.ep0Send, ep0SendClamped_ep0 h]
    split <;> rfl

/-- `s` with what a handler may write before it sends: registers, the pending address, memory. -/
def State.prepared (s : State) (endpt : Tab 4 Byte) (latch : BitVec 7) (pending : Bool) (m : List Host.Cell) : State :=
  { s with
    regs := { s.regs with endpt := endpt }
    ep0 := { s.ep0 with addrLatch := latch, addrPending := pending }
    mem := m }

/-- A handler that prepares the state so and sends answers the request. -/
theorem replied_ep0Send {endpt : Tab 4 Byte} {latch : BitVec 7} {pending : Bool} {m : List Host.Cell}
    (hm : s.memCanonical → s.cfg.replyAddr.toNat + 2 ≤ 2 ^ 32 →
      SameBytesOutside s.cfg.replyAddr 2 s (s.prepared endpt latch pending m)) (a : Word) (n : Nat) :
    Replied s ((s.prepared endpt latch pending m).ep0Send a n) pending where
  setup := by rw [ep0Send_ep0]; rfl
  configuration := by rw [ep0Send_ep0]; rfl
  addrPending := by rw [ep0Send_ep0]; rfl
  slots := ep0Send_sameSlots (s.prepared endpt latch pending m) a n
  first := .inr (ep0Send_first (s.prepared endpt latch pending m) a n)
  bytes hmem hspan := (ep0Send_sameBytes _ _ _).outside (hm hmem hspan)
  frame := by rw [ep0Send_frame]; rfl

theorem replied_send (s : State) (a : Word) (n : Nat) : Replied s (s.ep0Send a n) s.ep0.addrPending :=
  replied_ep0Send (endpt := s.regs.endpt) (latch := s.ep0.addrLatch) (m := s.mem) (fun _ _ _ _ => rfl) a n

theorem replied_reply (s : State) {bs : List Byte} (hlen : bs.length ≤ 2) :
    Replied s (s.reply bs) s.ep0.addrPending :=
  replied_ep0Send (endpt := s.regs.endpt) (latch := s.ep0.addrLatch) (m := memWrite s.mem s.cfg.replyAddr bs)
    (fun hmem hspan b hb => sameBytesOutside_store hmem (by omega) b (by omega)) _ _

theorem replied_setHalt (s : State) (e : Ep) (v : Bool) : Replied s (s.setHalt e v).statusIn s.ep0.addrPending :=
  replied_ep0Send (endpt := (s.setHalt e v).regs.endpt) (latch := s.ep0.addrLatch) (m := s.mem) (fun _ _ _ _ => rfl) _ _

theorem replied_setAddress (s : State) : Replied s s.setAddress true :=
  replied_ep0Send (endpt := s.regs.endpt) (latch := s.ep0.setup.deviceAddress) (m := s.mem) (fun _ _ _ _ => rfl) _ _

theorem replied_stallEp0 (s : State) : Replied s s.stallEp0 s.ep0.addrPending :=
  ⟨rfl, rfl, rfl, fun _ _ => rfl, .inl rfl, fun _ _ _ _ => rfl, rfl⟩

/-- A handler that answers the request: it serves it, or raises Stall0. -/
def Answered (s : State) (r : ReqOut) (pending : Bool) : Prop :=
  ∃ t, (r = .served t ∨ r = .stalled t) ∧ Replied s t pending

theorem Answered.served {p : Bool} (h : Replied s t p) : Answered s (.served t) p := ⟨t, .inl rfl, h⟩

theorem Answered.stall (s : State) : Answered s (raiseStall0 s) s.ep0.addrPending :=
  ⟨s.stallEp0, .inr rfl, replied_stallEp0 s⟩

/-- With `E_CMP` within `N_EP` no index that passes the check faults (R245). -/
theorem answered_indexed {i : Nat} {m : Bool} {k : Ep → ReqOut} (hcmp : s.cfg.eCmp ≤ s.cfg.nEp.toNat)
    (hk : ∀ e, Answered s (k e) s.ep0.addrPending) : Answered s (indexed s i m k) s.ep0.addrPending := by
  unfold indexed
  split
  · exact .stall s
  · next hpass =>
    simp only [Bool.or_eq_true, decide_eq_true_eq, not_or, Nat.not_lt] at hpass
    rw [if_neg (Nat.not_lt.mpr (hpass.1.trans hcmp))]
    exact hk _

/-- Every request but SET_CONFIGURATION is answered, where no hook is registered and `E_CMP` is within `N_EP`. -/
theorem answered_runRequest (hset : s.request ≠ .setConfiguration) (hhooks : s.cfg.numClassHooks = 0)
    (hcmp : s.cfg.eCmp ≤ s.cfg.nEp.toNat) (hpending : s.ep0.addrPending = false) :
    Answered s s.runRequest (decide (s.request = .setAddress)) := by
  rw [State.runRequest]
  cases hreq : s.request <;> simp only [reduceCtorEq, decide_true, decide_false]
  case setAddress => exact .served (replied_setAddress s)
  case setConfiguration => exact absurd hreq hset
  all_goals rw [← hpending]
  case getStatusDev => exact .served (replied_reply s (Nat.le_refl 2))
  case getStatusEp => exact answered_indexed hcmp fun _ => .served (replied_reply s (Nat.le_refl 2))
  case clearFeatureEp => exact answered_indexed hcmp fun _ => .served (replied_setHalt s _ _)
  case setFeatureEp => exact answered_indexed hcmp fun _ => .served (replied_setHalt s _ _)
  case getDescriptor =>
    unfold State.getDescriptor
    split
    · exact .served (replied_send s _ _)
    · exact .stall s
  case getConfiguration => exact .served (replied_reply s (Nat.le_succ 1))
  case other =>
    rw [State.otherRequest, hhooks]
    exact .stall s

/-- The dispatcher adds the phase and the model's record, which a reply says nothing of. -/
theorem replied_dispatchRequest {p : Bool} (h : Answered s s.runRequest p) :
    ∃ t, s.dispatchRequest = .next t ∧ Replied s t p := by
  obtain ⟨t, ht | ht, hsetup, hconf, haddr, hslots, hfirst, hbytes, hframe⟩ := h
  · exact ⟨_, dispatchRequest_served ht, hsetup, hconf, haddr, hslots, hfirst, hbytes, by rw [hframe]⟩
  · exact ⟨_, dispatchRequest_stalled ht, hsetup, hconf, haddr, hslots, hfirst, hbytes, by rw [hframe]⟩

/-! ## The SETUP completion (R241) -/

/-- The capture's four writes of the table: the slot given back, both transmit slots Unarmed. -/
theorem captureSetup_slots (s : State) (b : Bank) :
    (s.captureSetup (slotOf 0 .rx b)).slot (slotOf 0 .rx b) =
      ⟨armedWord (BitVec.ofNat 10 s.cfg.ep0Size) .data1, (s.slot (slotOf 0 .rx b)).addr⟩ ∧
    (∀ c, (s.captureSetup (slotOf 0 .rx b)).slot (slotOf 0 .tx c) = ⟨0, (s.slot (slotOf 0 .tx c)).addr⟩) ∧
    SameSlotsBut [slotOf 0 .rx b, slotOf 0 .tx .even, slotOf 0 .tx .odd] s (s.captureSetup (slotOf 0 .rx b)) := by
  have hslot : ∀ j, (s.captureSetup (slotOf 0 .rx b)).slot j =
      (((s.rearmEp0 (slotOf 0 .rx b)).setDesc (slotOf 0 .tx .even) unarmedWord).setDesc (slotOf 0 .tx .odd)
        unarmedWord).slot j := fun _ => rfl
  refine ⟨?_, fun c => ?_, fun j hj => ?_⟩
  · rw [hslot]
    simp [State.slot_setDesc, slotOf_inj, State.rearmEp0, Config.ep0Count]
  · rw [hslot]
    cases c <;> simp [State.slot_setDesc, slotOf_inj, State.rearmEp0, unarmedWord]
  · simp only [List.mem_cons, List.not_mem_nil, or_false, not_or] at hj
    obtain ⟨hrx, heven, hodd⟩ := hj
    rw [hslot, State.slot_setDesc, if_neg (Ne.symm hodd), State.slot_setDesc, if_neg (Ne.symm heven),
      State.rearmEp0, State.slot_setDesc, if_neg (Ne.symm hrx)]

theorem exec_ep0Setup {k : SlotIx} (h : Reachable s.cfg (s.slot k).addr 8) :
    exec (.ep0Setup k) s = (s.captureSetup k).dispatchRequest := withSpan_ok h.1 h.2

theorem clearSuspend_next (s : State) : clearSuspend (.next s) = .next (resumed s) :=
  congrArg Host.Outcome.next (writeCtl_resumed s)

/-- Settles O46: EP0.SETUP is the dispatch of the captured state, and what the dispatch leaves unchanged of that state
is unchanged or written by the capture. -/
theorem ep0SetupCapturesAndDispatches : Obligations.Ep0SetupCapturesAndDispatches := by
  refine ⟨?_, ?_⟩
  · rintro s b k rfl hreach
    obtain ⟨hrx, htx, hsame⟩ := captureSetup_slots s b
    exact ⟨_, exec_ep0Setup hreach, hrx, htx, hsame, rfl⟩
  · rintro s b k p rfl hreach rfl hset hhooks hcmp
    obtain ⟨hrx, htx, hsame⟩ := captureSetup_slots s b
    obtain ⟨t, ht, hreply⟩ := replied_dispatchRequest (s := s.captureSetup (slotOf 0 .rx b))
      (answered_runRequest hset hhooks hcmp rfl)
    have hsetup : exec (.ep0Setup (slotOf 0 .rx b)) s = .next t := (exec_ep0Setup hreach).trans ht
    have htok : exec (.tokSetup (slotOf 0 .rx b)) s = .next (resumed t) :=
      (congrArg clearSuspend hsetup).trans (clearSuspend_next t)
    refine ⟨t, hsetup, htok, hreply.setup, ?_, hsame.trans (hreply.slots.mono (List.subset_cons_self _ _)), ?_,
      hreply.addrPending, hreply.configuration, hreply.bytes, ?_⟩
    · rw [hreply.slots _ (by simp [slotOf_inj]), hrx]
    · exact hreply.first.imp_left fun h => by
        rw [show slotOf 0 .tx s.ep0.txBank = slotOf 0 .tx (s.captureSetup (slotOf 0 .rx b)).ep0.txBank from rfl, h]
        exact congrArg Slot.desc (htx _)
    · rw [hreply.frame]
      rfl

end Sys2Proof.Machine
end

section
/-! The hooks of endpoint 0 (spec/44_control_transfer.md R254, R261): the OUT completion by the hook's answer; what a
hook's calls keep of the answers still to come; and REQ.OTHER by induction over the hooks that decline. -/

namespace Sys2Proof.Machine

variable {s t u v : State}

/-! ## The OUT completion (R261) -/

/-- The timer value of a hook within its bound is set; none leaves the timer. -/
theorem hookTimer_next {tm : Option Nat} (h : ∀ n, tm = some n → n ≤ s.cfg.timerMax) :
    s.hookTimer tm = .next (s.setTimer (tm.getD s.ctx.rebootTimer)) := by
  cases tm with
  | none => rfl
  | some n => exact if_neg (Nat.not_lt.mpr (h n rfl))

/-- EP0.OUT with a hook that makes no call. -/
theorem exec_ep0Out {k : SlotIx} {h : OutOutcome} {tm : Option Nat}
    (hreach : Reachable s.cfg (s.slot k).addr (descCount (s.slot k).desc).toNat)
    (hanswer : s.nextOutAnswer = (⟨[], h, tm⟩, u)) (htm : ∀ n, tm = some n → n ≤ u.cfg.timerMax) :
    exec (.ep0Out k) s = .next ((u.setTimer (tm.getD u.ctx.rebootTimer)).finishOut k h) := by
  have hquiet : exec (.ep0Out k) s = andThen (runCalls s.nextOutAnswer.1.calls s.nextOutAnswer.2) fun t =>
      andThen (t.hookTimer s.nextOutAnswer.1.timer) fun w => .next (w.finishOut k s.nextOutAnswer.1.outcome) :=
    withSpan_ok hreach.1 hreach.2
  rw [hquiet, hanswer]
  change andThen (u.hookTimer tm) _ = _
  rw [hookTimer_next htm]
  rfl

theorem exec_tokOut {k : SlotIx} (h : exec (.ep0Out k) s = .next t) : exec (.tokOut k) s = .next (resumed t) :=
  (congrArg clearSuspend h).trans (clearSuspend_next t)

theorem rearmEp0_slot (s : State) (k : SlotIx) :
    (s.rearmEp0 k).slot k = ⟨armedWord (BitVec.ofNat 10 s.cfg.ep0Size) .data1, (s.slot k).addr⟩ :=
  Tab.get_set_self ..

theorem sameSlotsBut_rearmEp0 (s : State) (k : SlotIx) : SameSlotsBut [k] s (s.rearmEp0 k) := fun _ hj =>
  Tab.get_set_ne _ _ fun h => hj (List.mem_singleton.mpr h.symm)

/-- An acknowledging hook: a zero-length IN, then the slot given back. -/
theorem finishOut_ack_slots (s : State) (b : Bank) :
    (s.finishOut (slotOf 0 .rx b) .ack).slot (slotOf 0 .rx b) =
      ⟨armedWord (BitVec.ofNat 10 s.cfg.ep0Size) .data1, (s.slot (slotOf 0 .rx b)).addr⟩ ∧
    (s.finishOut (slotOf 0 .rx b) .ack).slot (slotOf 0 .tx s.ep0.txBank) =
      ⟨armedWord 0 s.ep0.txToggle, s.cfg.replyAddr⟩ ∧
    SameSlotsBut [slotOf 0 .rx b, slotOf 0 .tx s.ep0.txBank] s (s.finishOut (slotOf 0 .rx b) .ack) := by
  obtain ⟨hin, hsame, -⟩ := armedOne_ep0Transmit s s.cfg.replyAddr 0
  have hback := rearmEp0_slot (s.ep0Transmit s.cfg.replyAddr 0) (slotOf 0 .rx b)
  have hkept := sameSlotsBut_rearmEp0 (s.ep0Transmit s.cfg.replyAddr 0) (slotOf 0 .rx b)
  refine ⟨?_, ?_, ?_⟩
  · rw [hsame _ (by simp [slotOf_inj])] at hback
    exact hback
  · exact (hkept _ (by simp [slotOf_inj])).trans hin
  · exact (hsame.mono (List.subset_cons_self _ _)).trans
      (hkept.mono (List.cons_subset_cons _ (List.nil_subset _)))

/-- Settles O47: with no answer the slot alone is given back; an answer sets the timer and arms the zero-length IN or
nothing. -/
theorem ep0OutAsksHook : Obligations.Ep0OutAsksHook := by
  refine ⟨?_, ?_⟩
  · rintro s b k o rfl rfl hreach hnone
    have hanswer : s.nextOutAnswer = (⟨[], .notRecognised, none⟩, s) := by rw [State.nextOutAnswer, hnone]
    have hout := exec_ep0Out hreach hanswer (by simp)
    exact ⟨_, hout, exec_tokOut hout, rearmEp0_slot s _, sameSlotsBut_rearmEp0 s _, rfl, fun _ => rfl⟩
  · rintro s b k h tm rest o rfl rfl hreach hsome htm
    have hanswer : s.nextOutAnswer = (⟨[], h, tm⟩, { s with env := { s.env with outAnswers := rest } }) := by
      rw [State.nextOutAnswer, hsome]
    have hout := exec_ep0Out hreach hanswer htm
    refine ⟨_, hout, exec_tokOut hout, ?_⟩
    cases h with
    | ack =>
      obtain ⟨hback, hin, hsame⟩ := finishOut_ack_slots s b
      exact ⟨hback, rfl, fun _ => rfl, fun _ => ⟨hin, hsame, rfl⟩, fun hne => absurd rfl hne⟩
    | defer =>
      exact ⟨rearmEp0_slot s _, rfl, fun _ => rfl, nofun, fun _ => ⟨sameSlotsBut_rearmEp0 s _, rfl⟩⟩
    | notRecognised =>
      exact ⟨rearmEp0_slot s _, rfl, fun _ => rfl, nofun, fun _ => ⟨sameSlotsBut_rearmEp0 s _, rfl⟩⟩

/-! ## What a hook's calls keep -/

/-- What REQ.OTHER reads after a hook's calls: the parameters, and the answers still to come. -/
def State.hookView (s : State) : Config × List ClassAnswer := (s.cfg, s.env.classAnswers)

theorem poolReturn_hookView (s : State) (i : Nat) : Keeps State.hookView s (s.poolReturn i) :=
  .ite (.refused _) (.ite (.refused _) (.next (by rw [poolPut_pool]; rfl)))

theorem redirectTo_hookView (s : State) (e : Ep) (b : Bank) (i : Nat) :
    (s.redirectTo e b i).hookView = s.hookView := by
  rw [redirectTo_eq]
  rfl

theorem redirect_hookView (s : State) (e : Ep) (i : Nat) : Keeps State.hookView s (s.redirect e i) :=
  .ite (.next (redirectTo_hookView ..)) (.ite (.next (redirectTo_hookView ..))
    (.after (t := s.setStarved e false) rfl (poolReturn_hookView _ i)))

theorem releaseTo_hookView (s : State) (i : Nat) : Keeps State.hookView s (s.releaseTo i) := by
  unfold State.releaseTo
  split
  · exact .ite (redirect_hookView s _ i) (poolReturn_hookView s i)
  · exact poolReturn_hookView s i

theorem execRelease_hookView (p : BitVec 16) (s : State) : Keeps State.hookView s (execRelease p s) :=
  .ite (.next rfl) (.ite (.refused _) (.ite (.refused _)
    (.ite (.refused _) (.ite (.refused _) (releaseTo_hookView s _)))))

theorem submit_hookView (s : State) (e : Ep) (i : Nat) : (s.submit e i).hookView = s.hookView := by
  unfold State.submit
  split <;> rfl

theorem appStep_hookView (a : AppAct) (s : State) : Keeps State.hookView s (appStep a s) := by
  cases a with
  | fill i bytes => exact .ite (.refused _) (.ite (.refused _) (.ite (.refused _) (.withSpan (.next rfl))))
  | cursor i index => exact .ite (.refused _) (.ite (.refused _) (.next rfl))
  | store addr bytes => exact .ite (.fault _) (.ite (.refused _) (.ite (.refused _) (.next rfl)))

theorem runCall_hookView (c : HookCall) (s : State) : Keeps State.hookView s (runCall c s) := by
  cases c with
  | alloc ep => exact .next (by rw [State.allocCommand, allocate_pool]; rfl)
  | release p => exact execRelease_hookView p s
  | txSubmit ep p =>
    exact .ite (.next rfl) (.ite (.refused _) (.ite (.refused _) (.ite (.refused _)
      (.next (submit_hookView (s.setDiscipline _ _) _ _)))))
  | isoSubmit ep a n => exact .ite (.next rfl) (.ite (.refused _) (.ite (.refused _) (.ite (.refused _) (.next rfl))))
  | ep0Transmit a n => exact .ite (.refused _) (.ite (.refused _) (.ite (.refused _) (.next rfl)))
  | setRebootTimer n => exact .ite (.refused _) (.next rfl)
  | app a => exact appStep_hookView a s

theorem hookTimer_hookView (s : State) (tm : Option Nat) : Keeps State.hookView s (s.hookTimer tm) := by
  cases tm with
  | none => exact .next rfl
  | some n => exact .ite (.refused _) (.next rfl)

/-! ## One hook asked (R254) -/

variable {a : ClassAnswer} {pre rest : List ClassAnswer}

theorem nextClassAnswer_cons (h : s.env.classAnswers = a :: rest) :
    s.nextClassAnswer = (a, { s with env := { s.env with classAnswers := rest } }) := by
  rw [State.nextClassAnswer, h]

theorem nextClassAnswer_nil (h : s.env.classAnswers = []) : s.nextClassAnswer = (⟨[], .notHandled, none⟩, s) := by
  rw [State.nextClassAnswer, h]

/-- Asking a hook uses up its answer and keeps the parameters. -/
theorem askHook_view (hans : s.env.classAnswers = a :: rest) (h : askHook a s = .next u) :
    u.cfg = s.cfg ∧ u.env.classAnswers = rest := by
  have hkeep : Keeps State.hookView s.nextClassAnswer.2 (askHook a s) :=
    (Keeps.forEach runCall_hookView a.calls _).andThen fun t => hookTimer_hookView t a.timer
  have hview := hkeep u h
  rw [nextClassAnswer_cons hans] at hview
  exact Prod.mk.inj hview

/-- How the request goes on after a hook's answer, `n` hooks still to ask. -/
def afterAnswer (n : Nat) (a : ClassAnswer) (u : State) : ReqOut :=
  match a.outcome with
  | .notHandled => classHooks n u
  | .reply bytes => if u.cfg.replyBufSize < bytes.length then .refused .replyTooLong else .served (u.reply bytes)
  | .deferred => .served u

theorem afterAnswer_notHandled (n : Nat) (h : a.outcome = .notHandled) (u : State) :
    afterAnswer n a u = classHooks n u := by
  rw [afterAnswer, h]

theorem afterAnswer_deferred (n : Nat) (h : a.outcome = .deferred) (u : State) : afterAnswer n a u = .served u := by
  rw [afterAnswer, h]

theorem afterAnswer_reply (n : Nat) {bytes : List Byte} (h : a.outcome = .reply bytes) (u : State) :
    afterAnswer n a u =
      if u.cfg.replyBufSize < bytes.length then .refused .replyTooLong else .served (u.reply bytes) := by
  rw [afterAnswer, h]

theorem classHooks_asked (hans : s.env.classAnswers = a :: rest) (h : askHook a s = .next u) (n : Nat) :
    classHooks (n + 1) s = afterAnswer n a u := by
  obtain ⟨t, ht, hu⟩ := andThen_eq_next.mp h
  have hnext : s.nextClassAnswer.1 = a := by rw [nextClassAnswer_cons hans]
  rw [classHooks, hnext, ht]
  change ReqOut.after (t.hookTimer a.timer) _ = _
  rw [hu]
  rfl

/-- With no answer left every hook declines. -/
theorem classHooks_exhausted (hans : s.env.classAnswers = []) (n : Nat) : classHooks n s = raiseStall0 s := by
  induction n with
  | zero => rfl
  | succ n ih =>
    rw [classHooks, nextClassAnswer_nil hans]
    exact ih

/-- Hooks that decline pass the request on, each with its own effect. -/
theorem classHooks_declined (hans : s.env.classAnswers = pre ++ rest) (hpre : ∀ a ∈ pre, a.outcome = .notHandled)
    (h : forEach askHook pre s = .next u) (n : Nat) :
    classHooks (pre.length + n) s = classHooks n u ∧ u.cfg = s.cfg ∧ u.env.classAnswers = rest := by
  induction pre generalizing s with
  | nil =>
    injection h with h
    subst h
    exact ⟨congrArg (classHooks · s) (Nat.zero_add n), rfl, hans⟩
  | cons a pre ih =>
    obtain ⟨hout, hrest⟩ := List.forall_mem_cons.mp hpre
    obtain ⟨t, ht, hu⟩ := andThen_eq_next.mp h
    obtain ⟨hcfg, hans'⟩ := askHook_view hans ht
    obtain ⟨hgo, hcfg', hans''⟩ := ih hans' hrest hu
    refine ⟨?_, hcfg'.trans hcfg, hans''⟩
    rw [List.length_cons, Nat.add_right_comm, classHooks_asked hans ht, afterAnswer_notHandled _ hout, hgo]

/-! ## The request by how its hooks answer -/

/-- All registered hooks decline, by their answers or with none left. -/
theorem otherRequest_declined (hans : s.env.classAnswers = pre ++ rest) (hpre : ∀ a ∈ pre, a.outcome = .notHandled)
    (h : forEach askHook pre s = .next u)
    (hlen : pre.length = s.cfg.numClassHooks ∨ pre.length < s.cfg.numClassHooks ∧ rest = []) :
    s.otherRequest = raiseStall0 u := by
  have hle : pre.length ≤ s.cfg.numClassHooks := hlen.elim Nat.le_of_eq fun h => h.1.le
  obtain ⟨m, hm⟩ := Nat.exists_eq_add_of_le hle
  obtain ⟨hgo, -, hans'⟩ := classHooks_declined hans hpre h m
  rw [State.otherRequest, hm, hgo]
  rcases hlen with hall | ⟨-, rfl⟩
  · rw [show m = 0 by omega]
    rfl
  · exact classHooks_exhausted hans' m

/-- The first hook that does not decline ends the request. -/
theorem otherRequest_ended (hans : s.env.classAnswers = pre ++ a :: rest)
    (hpre : ∀ a ∈ pre, a.outcome = .notHandled) (h : forEach askHook pre s = .next u)
    (hlen : pre.length < s.cfg.numClassHooks) (hv : askHook a u = .next v) :
    (∃ n, s.otherRequest = afterAnswer n a v) ∧ v.cfg = s.cfg := by
  obtain ⟨m, hm⟩ := Nat.exists_eq_add_of_le (Nat.succ_le_of_lt hlen)
  obtain ⟨hgo, hcfg, hans'⟩ := classHooks_declined hans hpre h (m + 1)
  refine ⟨⟨m, ?_⟩, (askHook_view hans' hv).1.trans hcfg⟩
  rw [State.otherRequest, hm, Nat.succ_add_eq_add_succ, hgo, classHooks_asked hans' hv]

theorem exec_reqOther (s : State) (b bm : Byte) : exec (.reqOther b bm) s = s.otherRequest.toOut := rfl

theorem exec_reqOther_deferred (hans : s.env.classAnswers = pre ++ a :: rest)
    (hpre : ∀ a ∈ pre, a.outcome = .notHandled) (h : forEach askHook pre s = .next u)
    (hlen : pre.length < s.cfg.numClassHooks) (hv : askHook a u = .next v) (hout : a.outcome = .deferred)
    (b bm : Byte) : exec (.reqOther b bm) s = .next v := by
  obtain ⟨⟨n, hend⟩, -⟩ := otherRequest_ended hans hpre h hlen hv
  rw [exec_reqOther, hend, afterAnswer_deferred n hout]
  rfl

/-- A reply within `REPLY_BUF_SIZE` is stored and sent; a longer one is refused. -/
theorem exec_reqOther_reply {bytes : List Byte} (hans : s.env.classAnswers = pre ++ a :: rest)
    (hpre : ∀ a ∈ pre, a.outcome = .notHandled) (h : forEach askHook pre s = .next u)
    (hlen : pre.length < s.cfg.numClassHooks) (hv : askHook a u = .next v) (hout : a.outcome = .reply bytes)
    (b bm : Byte) :
    exec (.reqOther b bm) s =
      if s.cfg.replyBufSize < bytes.length then .refused .replyTooLong else .next (v.reply bytes) := by
  obtain ⟨⟨n, hend⟩, hcfg⟩ := otherRequest_ended hans hpre h hlen hv
  rw [exec_reqOther, hend, afterAnswer_reply n hout, hcfg]
  split <;> rfl

/-! ## Hooks that make no call -/

/-- Hooks that make no call were asked: the timer they left and the answers still to come. -/
def State.answered (s : State) (timer : Nat) (rest : List ClassAnswer) : State :=
  { s with ctx := { s.ctx with rebootTimer := timer }, env := { s.env with classAnswers := rest } }

/-- Asking a hook that makes no call. -/
theorem askHook_quiet {o : ClassOutcome} {tm : Option Nat} (hans : s.env.classAnswers = ⟨[], o, tm⟩ :: rest)
    (htm : ∀ n, tm = some n → n ≤ s.cfg.timerMax) :
    askHook ⟨[], o, tm⟩ s = .next (s.answered (tm.getD s.ctx.rebootTimer) rest) := by
  rw [askHook, nextClassAnswer_cons hans]
  exact hookTimer_next htm

/-- Asking hooks that make no call and decline: their timer values are set in turn. -/
theorem askHooks_quiet {tms : List (Option Nat)}
    (hans : s.env.classAnswers = tms.map (fun tm => ⟨[], .notHandled, tm⟩) ++ rest)
    (htms : ∀ n, some n ∈ tms → n ≤ s.cfg.timerMax) :
    forEach askHook (tms.map fun tm => ⟨[], .notHandled, tm⟩) s =
      .next (s.answered (tms.foldl (fun n tm => tm.getD n) s.ctx.rebootTimer) rest) := by
  induction tms generalizing s with
  | nil =>
    rw [show rest = s.env.classAnswers from hans.symm]
    rfl
  | cons tm tms ih =>
    have hask := askHook_quiet hans fun n hn => htms n (hn ▸ List.mem_cons_self)
    rw [List.map_cons, forEach, hask]
    exact ih rfl fun n hn => htms n (List.mem_cons_of_mem _ hn)

theorem declines_of_map {tms : List (Option Nat)} {a : ClassAnswer}
    (h : a ∈ tms.map fun tm => (⟨[], .notHandled, tm⟩ : ClassAnswer)) : a.outcome = .notHandled := by
  obtain ⟨tm, -, rfl⟩ := List.mem_map.mp h
  rfl

/-- Settles O52: hooks that decline pass the request on to the end, which is Stall0, or to the hook that ends it. -/
theorem otherRequestsAskHooks : Obligations.OtherRequestsAskHooks := by
  refine ⟨fun s u b bm pre rest hans hpre hu => ⟨fun hlen => ?_, fun hlen hrest => ?_,
    fun a v hlen hhead hv => ?_⟩, ?_⟩
  · rw [exec_reqOther, otherRequest_declined hans hpre hu (.inl hlen)]
    rfl
  · rw [exec_reqOther, otherRequest_declined hans hpre hu (.inr ⟨hlen, hrest⟩)]
    rfl
  · obtain ⟨rest', rfl⟩ : ∃ rest', rest = a :: rest' := List.head?_eq_some_iff.mp hhead
    refine ⟨fun hout => exec_reqOther_deferred hans hpre hu hlen hv hout b bm, fun bytes hout => ?_⟩
    rw [exec_reqOther_reply hans hpre hu hlen hv hout]
    refine ⟨fun hle hbound => ⟨v.reply bytes, if_neg (Nat.not_lt.mpr hle), ?_⟩, fun hlong => if_pos hlong⟩
    have hcfg := (otherRequest_ended hans hpre hu hlen hv).2
    rw [exec, execEp0Send, BitVec.toNat_ofNat, Nat.mod_eq_of_lt hbound, State.reply, hcfg]
  · rintro s b bm tms pre rest u rfl hans htms rfl
    have hu := askHooks_quiet hans htms
    have hpre : ∀ a ∈ tms.map fun tm => (⟨[], .notHandled, tm⟩ : ClassAnswer), a.outcome = .notHandled :=
      fun _ => declines_of_map
    refine ⟨hu, fun hlen => ?_, ?_, ?_⟩
    · have hall := otherRequest_declined hans hpre hu (.inl (by simpa using hlen))
      refine ⟨by rw [exec_reqOther, hall]; rfl, fun hrow => ?_⟩
      have hrun : s.runRequest = s.otherRequest := by
        rw [State.runRequest, show s.request = .other from hrow]
      exact dispatchRequest_stalled (hrun.trans hall)
    · rintro bytes tm rest' hlen rfl htm hle hmem hspan
      have hreply := exec_reqOther_reply hans hpre hu (by simpa using hlen) (askHook_quiet rfl htm) rfl b bm
      rw [if_neg (Nat.not_lt.mpr hle)] at hreply
      obtain ⟨hbytes, hout, hslots, harmed, hframe⟩ := reply_spec
        (s := s.answered (tm.getD (tms.foldl (fun n tm => tm.getD n) s.ctx.rebootTimer)) rest') hmem hspan
      exact ⟨_, hreply, hbytes, hout, harmed, hslots, hframe⟩
    · rintro tm rest' hlen rfl htm
      exact exec_reqOther_deferred hans hpre hu (by simpa using hlen) (askHook_quiet rfl htm) rfl b bm

end Sys2Proof.Machine
end

section
/-! The packets of the pool in sequence (spec/41_allocator.md R171 to R175): which packets are free after packets were
returned and after others were allocated, from a sound free structure; and that all of it reads the parameters and the
pool alone. -/

namespace Sys2Proof.Machine

variable {s t u : State} {i j p : Nat} {e : Ep}

/-! ## The parameters and the pool alone -/

/-- `t` has the parameters and the pool of `s`. -/
def SamePool (s t : State) : Prop := t.cfg = s.cfg ∧ t.pool = s.pool

theorem SamePool.refl (s : State) : SamePool s s := ⟨rfl, rfl⟩

theorem SamePool.trans (h : SamePool s t) (h' : SamePool t u) : SamePool s u := ⟨h'.1.trans h.1, h'.2.trans h.2⟩

/-- A state with the parameters and the pool of another is that one with other fields. -/
theorem SamePool.eq_with (h : SamePool s t) : t = { t with cfg := s.cfg, pool := s.pool } := by
  rw [← h.1, ← h.2]

theorem SamePool.pktFree (h : SamePool s t) (i : Nat) : t.pktFree i = s.pktFree i := by
  rw [h.eq_with]
  rfl

theorem SamePool.poolPut (h : SamePool s t) (i : Nat) : SamePool (s.poolPut i) (t.poolPut i) := by
  rw [h.eq_with]
  unfold State.poolPut
  dsimp only
  split <;> exact ⟨rfl, rfl⟩

theorem SamePool.foldl_poolPut (h : SamePool s t) (l : List Nat) :
    SamePool (l.foldl State.poolPut s) (l.foldl State.poolPut t) := by
  induction l generalizing s t with
  | nil => exact h
  | cons i l ih => exact ih (h.poolPut i)

theorem SamePool.allocate (h : SamePool s t) (hint : Byte) :
    (t.allocate hint).1 = (s.allocate hint).1 ∧ SamePool (s.allocate hint).2 (t.allocate hint).2 := by
  rw [h.eq_with]
  unfold State.allocate State.allocShared State.allocSegregated State.validEp
  dsimp only
  split
  · split <;> exact ⟨rfl, rfl, rfl⟩
  · split
    · split <;> exact ⟨rfl, rfl, rfl⟩
    · exact ⟨rfl, rfl, rfl⟩

theorem poolPut_cfg (s : State) (i : Nat) : (s.poolPut i).cfg = s.cfg := by rw [poolPut_pool]

theorem allocate_cfg (s : State) (hint : Byte) : (s.allocate hint).2.cfg = s.cfg := by rw [allocate_pool]

/-! ## The free structure by strategy -/

theorem getMsbD_mapBit (i j : Nat) : (mapBit i).getMsbD j = decide (j < 32 ∧ j = i) := by
  have htop : ∀ k, (0x80000000#32).getMsbD k = decide (k = 0) := fun k => by
    by_cases hk : k < 32
    · interval_cases k <;> rfl
    · rw [BitVec.getMsbD_of_ge _ _ (by omega), decide_eq_false (by omega)]
  rw [mapBit, BitVec.getMsbD_ushiftRight, htop]
  by_cases hj : j < 32 <;> by_cases hi : j < i <;> simp [hj, hi] <;> omega

theorem pktFree_shared (h : s.cfg.allocStrategy = .sharedBitmap) (i : Nat) :
    s.pktFree i = true ↔ i < 32 ∧ s.pool.freeMap.getMsbD i = true := by
  rw [State.pktFree, h]
  simp

theorem pktFree_segregated (h : s.cfg.allocStrategy = .segregated) (i : Nat) :
    s.pktFree i = true ↔ ∃ e ∈ s.cfg.endpoints, i ∈ s.pool.freeList.get e := by
  rw [State.pktFree, h]
  simp

theorem poolSound_shared (h : s.cfg.allocStrategy = .sharedBitmap) : s.poolSound ↔ s.cfg.numBuffers ≤ 32 := by
  rw [State.poolSound, h]

theorem poolSound_segregated (h : s.cfg.allocStrategy = .segregated) :
    s.poolSound ↔ (∀ i, i < s.cfg.numBuffers → 1 ≤ (s.pkt i).owner ∧ (s.pkt i).owner ≤ s.cfg.nEp.toNat) ∧
      ∀ e ∈ s.cfg.endpoints, (s.pool.freeList.get e).Nodup ∧
        ∀ i ∈ s.pool.freeList.get e, i < s.cfg.numBuffers ∧ (s.pkt i).owner = e.toNat := by
  rw [State.poolSound, h]

/-- The owner's endpoint of a packet with an owner tag in `1..N_EP`. -/
theorem ownerEp_toNat (h : (s.pkt i).owner ≤ s.cfg.nEp.toNat) : (s.ownerEp i).toNat = (s.pkt i).owner := by
  rw [State.ownerEp, BitVec.toNat_ofNat]
  exact Nat.mod_eq_of_lt (by omega)

theorem freeList_poolPut (h : s.cfg.allocStrategy = .segregated) (i : Nat) (e : Ep) :
    (s.poolPut i).pool.freeList.get e =
      if s.ownerEp i = e then i :: s.pool.freeList.get e else s.pool.freeList.get e := by
  rw [poolPut_segregated h]
  change (s.pool.freeList.set _ _).get e = _
  rw [Tab.get_set]
  split
  · next he => rw [he]
  · rfl

theorem pkt_poolPut (s : State) (i j : Nat) : (s.poolPut i).pkt j = s.pkt j := by
  unfold State.poolPut
  split <;> rfl

/-! ## A packet returned -/

/-- Returning a packet makes no other packet free. -/
theorem pktFree_poolPut_ne (h : i ≠ j) : (s.poolPut j).pktFree i = s.pktFree i := by
  rw [Bool.eq_iff_iff]
  cases hs : s.cfg.allocStrategy with
  | sharedBitmap =>
    rw [pktFree_shared (by rwa [poolPut_cfg]), pktFree_shared hs, poolPut_shared hs]
    simp [getMsbD_mapBit, h]
  | segregated =>
    rw [pktFree_segregated (by rwa [poolPut_cfg]), pktFree_segregated hs, poolPut_cfg]
    refine exists_congr fun e => and_congr_right fun _ => ?_
    rw [freeList_poolPut hs]
    split <;> simp [h]

theorem pktFree_poolPut_self (hsound : s.poolSound) (hi : i < s.cfg.numBuffers) : (s.poolPut i).pktFree i = true := by
  cases hs : s.cfg.allocStrategy with
  | sharedBitmap =>
    have hbound := (poolSound_shared hs).mp hsound
    rw [pktFree_shared (by rwa [poolPut_cfg]), poolPut_shared hs]
    have hlt : i < 32 := by omega
    simp [getMsbD_mapBit, hlt]
  | segregated =>
    obtain ⟨hlo, hhi⟩ := ((poolSound_segregated hs).mp hsound).1 i hi
    have howner := ownerEp_toNat hhi
    rw [pktFree_segregated (by rwa [poolPut_cfg]), poolPut_cfg]
    refine ⟨s.ownerEp i, mem_endpoints.mpr (by omega), ?_⟩
    rw [freeList_poolPut hs, if_pos rfl]
    exact List.mem_cons_self

theorem poolSound_poolPut (hsound : s.poolSound) (hi : i < s.cfg.numBuffers) (hfree : s.pktFree i = false) :
    (s.poolPut i).poolSound := by
  cases hs : s.cfg.allocStrategy with
  | sharedBitmap =>
    rw [poolSound_shared (by rwa [poolPut_cfg]), poolPut_cfg]
    exact (poolSound_shared hs).mp hsound
  | segregated =>
    obtain ⟨howner, hlists⟩ := (poolSound_segregated hs).mp hsound
    rw [poolSound_segregated (by rwa [poolPut_cfg]), poolPut_cfg]
    simp only [pkt_poolPut]
    refine ⟨howner, fun e he => ?_⟩
    obtain ⟨hnodup, hown⟩ := hlists e he
    rw [freeList_poolPut hs]
    split
    · next hep =>
      have hnew : i ∉ s.pool.freeList.get e := fun hmem => by
        rw [(pktFree_segregated hs i).mpr ⟨e, he, hmem⟩] at hfree
        cases hfree
      refine ⟨List.nodup_cons.mpr ⟨hnew, hnodup⟩, List.forall_mem_cons.mpr ⟨⟨hi, ?_⟩, hown⟩⟩
      rw [← hep, ownerEp_toNat (howner i hi).2]
    · exact ⟨hnodup, hown⟩

/-- Different packets of the pool, none of them free: they can be returned one after the other. -/
def Returnable (l : List Nat) (s : State) : Prop :=
  l.Nodup ∧ ∀ i ∈ l, i < s.cfg.numBuffers ∧ s.pktFree i = false

theorem Returnable.cons {l : List Nat} (h : Returnable (i :: l) s) :
    i < s.cfg.numBuffers ∧ s.pktFree i = false ∧ Returnable l (s.poolPut i) := by
  obtain ⟨hi, hnodup⟩ := List.nodup_cons.mp h.1
  obtain ⟨⟨hlt, hfree⟩, hrest⟩ := List.forall_mem_cons.mp h.2
  refine ⟨hlt, hfree, hnodup, fun j hj => ?_⟩
  rw [poolPut_cfg, pktFree_poolPut_ne (ne_of_mem_of_not_mem hj hi)]
  exact hrest j hj

/-- The first packets of a list are returned, then the others. -/
theorem Returnable.append {l l' : List Nat} (h : Returnable (l ++ l') s) :
    Returnable l s ∧ Returnable l' (l.foldl State.poolPut s) := by
  refine ⟨⟨h.1.of_append_left, fun i hi => h.2 i (List.mem_append_left l' hi)⟩, ?_⟩
  induction l generalizing s with
  | nil => exact h
  | cons i l ih => exact ih h.cons.2.2

theorem Returnable.of_samePool {l : List Nat} (h : Returnable l s) (hst : SamePool s t) : Returnable l t :=
  ⟨h.1, fun i hi => by rw [hst.1, hst.pktFree]; exact h.2 i hi⟩

theorem returnAll_next {l : List Nat} (h : Returnable l s) : returnAll l s = .next (l.foldl State.poolPut s) := by
  induction l generalizing s with
  | nil => rfl
  | cons i l ih =>
    obtain ⟨hlt, hfree, hrest⟩ := h.cons
    rw [returnAll, forEach, poolReturn_next hlt hfree]
    exact ih hrest

theorem foldl_poolPut_cfg (l : List Nat) (s : State) : (l.foldl State.poolPut s).cfg = s.cfg :=
  foldl_keeps (f := State.cfg) poolPut_cfg l s

/-- What is free afterwards: the packets free before and the packets returned. -/
theorem pktFree_foldl_poolPut {l : List Nat} (hsound : s.poolSound) (h : Returnable l s) :
    (l.foldl State.poolPut s).poolSound ∧
      ∀ j, (l.foldl State.poolPut s).pktFree j = true ↔ s.pktFree j = true ∨ j ∈ l := by
  induction l generalizing s with
  | nil => exact ⟨hsound, fun j => by simp⟩
  | cons i l ih =>
    obtain ⟨hlt, hfree, hrest⟩ := h.cons
    obtain ⟨hsound', hfree'⟩ := ih (poolSound_poolPut hsound hlt hfree) hrest
    refine ⟨hsound', fun j => (hfree' j).trans ?_⟩
    by_cases hj : j = i
    · subst hj
      simp [pktFree_poolPut_self hsound hlt]
    · rw [pktFree_poolPut_ne hj, List.mem_cons, or_iff_right hj]

/-! ## A packet allocated -/

theorem owner_freshHeader (s : State) (i j : Nat) : ((s.freshHeader i).pkt j).owner = (s.pkt j).owner := by
  rw [State.freshHeader, State.pkt_setPkt]
  split
  · next h => rw [← h]
  · rfl

/-- ALLOC finds nothing: under SharedBitmap no packet is free, under Segregated the endpoint's list is empty. -/
def Exhausted (c : Config) (s : State) (e : Ep) : Prop :=
  match c.allocStrategy with
  | .sharedBitmap => ∀ i, i < c.numBuffers → s.pktFree i = false
  | .segregated => s.pool.freeList.get e = []

theorem exhausted_shared {c : Config} (h : c.allocStrategy = .sharedBitmap) :
    Exhausted c s e ↔ ∀ i, i < c.numBuffers → s.pktFree i = false := by
  rw [Exhausted, h]

theorem exhausted_segregated {c : Config} (h : c.allocStrategy = .segregated) :
    Exhausted c s e ↔ s.pool.freeList.get e = [] := by
  rw [Exhausted, h]

theorem Exhausted.of_samePool {c : Config} (h : Exhausted c s e) (hst : SamePool s t) : Exhausted c t e := by
  rw [hst.eq_with]
  exact h

/-- What an allocation that answers `p` leaves. -/
structure Took (s t : State) (p : Nat) : Prop where
  lt : p < s.cfg.numBuffers
  free : s.pktFree p = true
  sound : t.poolSound
  free_iff : ∀ i, i < s.cfg.numBuffers → (t.pktFree i = true ↔ s.pktFree i = true ∧ i ≠ p)

theorem took_takeShared (hs : s.cfg.allocStrategy = .sharedBitmap) (hsound : s.poolSound)
    (h : firstFree s.pool.freeMap s.cfg.numBuffers = some p) : Took s (s.takeShared p) p := by
  have hbound := (poolSound_shared hs).mp hsound
  obtain ⟨hlt, hbit, -⟩ := firstFree_eq_some.mp h
  refine ⟨hlt, (pktFree_shared hs p).mpr ⟨by omega, hbit⟩, (poolSound_shared (s := s.takeShared p) hs).mpr hbound,
    fun i hi => ?_⟩
  have hi32 : i < 32 := by omega
  rw [pktFree_shared hs, pktFree_shared (s := s.takeShared p) hs]
  change _ ∧ (s.pool.freeMap &&& ~~~(mapBit p)).getMsbD i = true ↔ _
  simp [getMsbD_mapBit, hi32]

theorem took_freeList {rest : List Nat} (hs : s.cfg.allocStrategy = .segregated) (hsound : s.poolSound)
    (he : e ∈ s.cfg.endpoints) (h : s.pool.freeList.get e = p :: rest) :
    Took s ((s.setFreeList e rest).freshHeader p) p := by
  obtain ⟨howner, hlists⟩ := (poolSound_segregated hs).mp hsound
  obtain ⟨hnodup, hown⟩ := hlists e he
  rw [h] at hnodup hown
  obtain ⟨hp, hnodup'⟩ := List.nodup_cons.mp hnodup
  obtain ⟨⟨hlt, hpe⟩, hown'⟩ := List.forall_mem_cons.mp hown
  have hget : ∀ f, ((s.setFreeList e rest).freshHeader p).pool.freeList.get f =
      if e = f then rest else s.pool.freeList.get f := fun f => Tab.get_set ..
  have hpkt : ∀ j, (((s.setFreeList e rest).freshHeader p).pkt j).owner = (s.pkt j).owner := owner_freshHeader _ p
  refine ⟨hlt, (pktFree_segregated hs p).mpr ⟨e, he, h ▸ List.mem_cons_self⟩, ?_, fun i _ => ?_⟩
  · rw [poolSound_segregated (s := (s.setFreeList e rest).freshHeader p) hs]
    simp only [hpkt, hget]
    refine ⟨howner, fun f hf => ?_⟩
    split
    · next hef => exact hef ▸ ⟨hnodup', hown'⟩
    · exact hlists f hf
  · rw [pktFree_segregated hs, pktFree_segregated (s := (s.setFreeList e rest).freshHeader p) hs]
    simp only [hget]
    constructor
    · rintro ⟨f, hf, hmem⟩
      split at hmem
      · exact ⟨⟨e, he, h ▸ List.mem_cons_of_mem p hmem⟩, ne_of_mem_of_not_mem hmem hp⟩
      · next hne =>
        refine ⟨⟨f, hf, hmem⟩, ?_⟩
        rintro rfl
        exact hne (BitVec.eq_of_toNat_eq (hpe.symm.trans ((hlists f hf).2 i hmem).2))
    · rintro ⟨⟨f, hf, hmem⟩, hne⟩
      refine ⟨f, hf, ?_⟩
      split
      · next hef =>
        rw [← hef, h] at hmem
        exact (List.mem_cons.mp hmem).resolve_left hne
      · exact hmem

theorem validEp_setWidth (he : e ∈ s.cfg.endpoints) : s.validEp (e.setWidth 8) = true := by
  obtain ⟨hlo, hhi⟩ := mem_endpoints.mp he
  refine validEp_eq_true.mpr ?_
  rw [BitVec.toNat_setWidth_of_le (by decide)]
  exact ⟨hlo, hhi⟩

/-- ALLOC for an endpoint: a free packet is taken, or there is none (R172, R174). -/
theorem allocate_cases (hsound : s.poolSound) (he : e ∈ s.cfg.endpoints) :
    (∃ p, (s.allocate (e.setWidth 8)).1 = some p ∧ Took s (s.allocate (e.setWidth 8)).2 p) ∨
    (s.allocate (e.setWidth 8)).1 = none ∧ (s.allocate (e.setWidth 8)).2 = s ∧ Exhausted s.cfg s e := by
  cases hs : s.cfg.allocStrategy with
  | sharedBitmap =>
    have halloc : s.allocate (e.setWidth 8) = s.allocShared := by rw [State.allocate, hs]
    rw [halloc, exhausted_shared hs]
    cases hfirst : firstFree s.pool.freeMap s.cfg.numBuffers with
    | some p =>
      rw [allocShared_some hfirst]
      exact .inl ⟨p, rfl, took_takeShared hs hsound hfirst⟩
    | none =>
      rw [allocShared_none hfirst]
      refine .inr ⟨rfl, rfl, fun i hi => Bool.eq_false_iff.mpr fun hfree => ?_⟩
      rw [pktFree_shared hs, firstFree_eq_none.mp hfirst i hi] at hfree
      cases hfree.2
  | segregated =>
    have halloc : s.allocate (e.setWidth 8) = s.allocSegregated (e.setWidth 8) := by rw [State.allocate, hs]
    rw [halloc, exhausted_segregated hs]
    cases hlist : s.pool.freeList.get e with
    | cons p rest =>
      have hcons := allocSegregated_cons (validEp_setWidth he) (by rw [epOf_setWidth, hlist])
      rw [epOf_setWidth] at hcons
      rw [hcons]
      exact .inl ⟨p, rfl, took_freeList hs hsound he hlist⟩
    | nil =>
      rw [allocSegregated_none (.inr (by rw [epOf_setWidth, hlist]))]
      exact .inr ⟨rfl, rfl, rfl⟩

/-! ## Packets allocated in sequence -/

variable {rs : List (Ep × Bank)}

theorem allocEach_keys (rs : List (Ep × Bank)) (s : State) : (allocEach rs s).1.map Prod.fst = rs := by
  induction rs generalizing s with
  | nil => rfl
  | cons r rs ih => rw [allocEach, List.map_cons, ih]

theorem allocEach_append (rs qs : List (Ep × Bank)) (s : State) :
    (allocEach (rs ++ qs) s).1 = (allocEach rs s).1 ++ (allocEach qs (allocEach rs s).2).1 ∧
      (allocEach (rs ++ qs) s).2 = (allocEach qs (allocEach rs s).2).2 := by
  induction rs generalizing s with
  | nil => exact ⟨rfl, rfl⟩
  | cons r rs ih =>
    obtain ⟨hgot, hstate⟩ := ih (s.allocate (r.1.setWidth 8)).2
    simp only [List.cons_append, allocEach, hgot, hstate, and_self]

theorem SamePool.allocEach (h : SamePool s t) (rs : List (Ep × Bank)) :
    (allocEach rs t).1 = (allocEach rs s).1 ∧ SamePool (allocEach rs s).2 (allocEach rs t).2 := by
  induction rs generalizing s t with
  | nil => exact ⟨rfl, h⟩
  | cons r rs ih =>
    obtain ⟨hgot, hpool⟩ := h.allocate (r.1.setWidth 8)
    obtain ⟨hgot', hpool'⟩ := ih hpool
    exact ⟨by simp only [Machine.allocEach, hgot, hgot'], hpool'⟩

theorem allocEach_cfg (rs : List (Ep × Bank)) (s : State) : (allocEach rs s).2.cfg = s.cfg := by
  induction rs generalizing s with
  | nil => rfl
  | cons r rs ih => exact (ih _).trans (allocate_cfg s _)

/-- What allocations in sequence leave: the packets got are packets of the pool that were free, all different, and of
the free packets those are free that were not taken. -/
structure TookEach (s t : State) (got : List Nat) : Prop where
  nodup : got.Nodup
  lt : ∀ p ∈ got, p < s.cfg.numBuffers
  free : ∀ p ∈ got, s.pktFree p = true
  free_iff : ∀ i, i < s.cfg.numBuffers → (t.pktFree i = true ↔ s.pktFree i = true ∧ i ∉ got)

theorem TookEach.cons {got : List Nat} (h : Took s t p) (ht : t.cfg = s.cfg) (h' : TookEach t u got) :
    TookEach s u (p :: got) := by
  obtain ⟨hlt, hfree, -, hiff⟩ := h
  obtain ⟨hnodup, hlts, hfrees, hiffs⟩ := h'
  rw [ht] at hlts hiffs
  have hstill : ∀ q ∈ got, s.pktFree q = true ∧ q ≠ p := fun q hq => (hiff q (hlts q hq)).mp (hfrees q hq)
  refine ⟨List.nodup_cons.mpr ⟨fun hp => (hstill p hp).2 rfl, hnodup⟩, List.forall_mem_cons.mpr ⟨hlt, hlts⟩,
    List.forall_mem_cons.mpr ⟨hfree, fun q hq => (hstill q hq).1⟩, fun i hi => ?_⟩
  rw [hiffs i hi, hiff i hi, List.mem_cons, not_or, and_assoc]

/-- What is exhausted stays so, packets only being taken. -/
theorem Exhausted.of_tookEach {got : List Nat} (hs : s.cfg.allocStrategy = .sharedBitmap) (h : TookEach s t got)
    (he : Exhausted s.cfg s e) : Exhausted s.cfg t e := by
  rw [exhausted_shared hs] at he ⊢
  refine fun i hi => Bool.eq_false_iff.mpr fun hfree => ?_
  have hbefore := ((h.free_iff i hi).mp hfree).1
  rw [he i hi] at hbefore
  cases hbefore

theorem freeList_nil_allocate (hs : s.cfg.allocStrategy = .segregated) (he : s.pool.freeList.get e = [])
    (hint : Byte) : (s.allocate hint).2.pool.freeList.get e = [] := by
  have halloc : s.allocate hint = s.allocSegregated hint := by rw [State.allocate, hs]
  rw [halloc, State.allocSegregated]
  split
  · cases hlist : s.pool.freeList.get (epOf hint) with
    | nil => exact he
    | cons p rest =>
      refine (Tab.get_set_ne _ _ ?_).trans he
      rintro rfl
      rw [he] at hlist
      cases hlist
  · exact he

theorem freeList_nil_allocEach (hs : s.cfg.allocStrategy = .segregated) (he : s.pool.freeList.get e = [])
    (rs : List (Ep × Bank)) : (allocEach rs s).2.pool.freeList.get e = [] := by
  induction rs generalizing s with
  | nil => exact he
  | cons r rs ih => exact ih (by rwa [allocate_cfg]) (freeList_nil_allocate hs he _)

theorem allocEach_tookEach (hsound : s.poolSound) (hrs : ∀ r ∈ rs, r.1 ∈ s.cfg.endpoints) :
    TookEach s (allocEach rs s).2 ((allocEach rs s).1.filterMap Prod.snd) := by
  induction rs generalizing s with
  | nil => exact ⟨List.nodup_nil, by simp [allocEach], by simp [allocEach], by simp [allocEach]⟩
  | cons r rs ih =>
    obtain ⟨hr, hrs'⟩ := List.forall_mem_cons.mp hrs
    have hcfg := allocate_cfg s (r.1.setWidth 8)
    rw [allocEach]
    rcases allocate_cases hsound hr with ⟨p, hp, htook⟩ | ⟨hnone, hsame, -⟩
    · simp only [List.filterMap_cons, hp]
      exact .cons htook hcfg (ih htook.sound (hcfg ▸ hrs'))
    · simp only [List.filterMap_cons, hnone, hsame]
      exact ih hsound hrs'

/-- A bank that got none found the pool exhausted, and it still is. -/
theorem allocEach_exhausted {b : Bank} (hsound : s.poolSound) (hrs : ∀ r ∈ rs, r.1 ∈ s.cfg.endpoints)
    (hnone : ((e, b), none) ∈ (allocEach rs s).1) : Exhausted s.cfg (allocEach rs s).2 e := by
  induction rs generalizing s with
  | nil => cases hnone
  | cons r rs ih =>
    obtain ⟨hr, hrs'⟩ := List.forall_mem_cons.mp hrs
    have hcfg := allocate_cfg s (r.1.setWidth 8)
    rw [allocEach, List.mem_cons] at hnone
    rw [allocEach]
    rcases allocate_cases hsound hr with ⟨p, hp, htook⟩ | ⟨hnone', hsame, hexhausted⟩
    · rw [← hcfg]
      refine ih htook.sound (hcfg ▸ hrs') (hnone.resolve_left fun h => ?_)
      rw [hp] at h
      cases h
    · rw [hsame] at hnone ⊢
      rcases hnone with hhead | htail
      · obtain ⟨rfl⟩ : r = (e, b) := (congrArg Prod.fst hhead).symm
        cases hs : s.cfg.allocStrategy with
        | sharedBitmap =>
          exact hexhausted.of_tookEach hs (allocEach_tookEach hsound hrs')
        | segregated =>
          rw [exhausted_segregated hs]
          exact freeList_nil_allocEach hs ((exhausted_segregated hs).mp hexhausted) rs
      · exact ih hsound hrs' htail

end Sys2Proof.Machine
end

section
/-! SET_CONFIGURATION (spec/44_control_transfer.md R247): the teardown returns every packet and leaves each record torn
down; then each endpoint is enabled by itself, its receive banks taking what ALLOC gives them in order. -/

namespace Sys2Proof.Machine

variable {s t u : State} {e f : Ep} {b : Bank} {k : SlotIx} {l : List Ep}

/-! ## A pass over the endpoints -/

theorem endpoints_nodup (c : Config) : c.endpoints.Nodup := by
  refine List.Nodup.map_on (fun i hi j hj h => ?_) List.nodup_range
  have hn := congrArg BitVec.toNat h
  rw [List.mem_range] at hi hj
  have hlt := c.nEp.isLt
  simp only [BitVec.toNat_ofNat] at hn
  omega

/-- A pass that writes each endpoint's record once, from the parameters and that record. -/
theorem foldl_endpoint {g : State → Ep → State} {h : Config → Endpoint → Endpoint}
    (hcfg : ∀ s f, (g s f).cfg = s.cfg)
    (hg : ∀ s f e, (g s f).endpoint e = if f = e then h s.cfg (s.endpoint e) else s.endpoint e)
    (hl : l.Nodup) (s : State) (e : Ep) :
    (l.foldl g s).endpoint e = if e ∈ l then h s.cfg (s.endpoint e) else s.endpoint e := by
  induction l generalizing s with
  | nil => rfl
  | cons f l ih =>
    obtain ⟨hf, hl'⟩ := List.nodup_cons.mp hl
    rw [List.foldl_cons, ih hl', hcfg, hg]
    by_cases hfe : f = e
    · subst hfe
      simp [hf]
    · simp [hfe, Ne.symm hfe]

theorem endpoint_setStarved (s : State) (f : Ep) (v : Bool) (e : Ep) : (s.setStarved f v).endpoint e =
    if f = e then { s.endpoint e with starved := v } else s.endpoint e := by
  rw [State.setStarved, State.endpoint_setEndpoint]
  split
  · next h => rw [h]
  · rfl

theorem endpoint_tornDown (s : State) (f e : Ep) : (s.tornDown f).endpoint e =
    if f = e then { s.endpoint e with
      rxq := [], rxBytes := 0, txq := []
      txState := teardownBank s.cfg.teardownMap (s.endpoint e).txState, discipline := .unused }
    else s.endpoint e := by
  rw [State.tornDown, State.endpoint_setEndpoint]
  split
  · next h => rw [h]
  · rfl

/-! ## Steps 1 and 2: the packets returned -/

/-- The packet bound to an Armed slot. -/
def State.boundAt (s : State) (k : SlotIx) : Option Nat :=
  if descOwn (s.slot k).desc then s.pktOfAddr (s.slot k).addr else none

/-- The packets in the queues of an endpoint. -/
def State.queued (s : State) (e : Ep) : List Nat := (s.endpoint e).rxq ++ (s.endpoint e).txq

theorem tornPackets_eq (s : State) : s.tornPackets =
    (Config.dataSlots s.cfg).filterMap s.boundAt ++ s.cfg.endpoints.flatMap s.queued := rfl

theorem returnSlot_none (h : s.boundAt k = none) : returnSlot k s = .next s := by
  unfold State.boundAt at h
  unfold returnSlot
  split at h
  · next hown => rw [if_pos hown, h]
  · next hown => rw [if_neg hown]

theorem returnSlot_some {i : Nat} (h : s.boundAt k = some i) : returnSlot k s = s.poolReturn i := by
  unfold State.boundAt at h
  unfold returnSlot
  split at h
  · next hown => rw [if_pos hown, h]
  · cases h

theorem poolPut_boundAt (s : State) (i : Nat) : (s.poolPut i).boundAt = s.boundAt := by
  rw [poolPut_pool]
  rfl

theorem poolPut_queued (s : State) (i : Nat) : (s.poolPut i).queued = s.queued := by
  rw [poolPut_pool]
  rfl

theorem foldl_poolPut_queued (is : List Nat) (s : State) : (is.foldl State.poolPut s).queued = s.queued :=
  foldl_keeps (f := State.queued) poolPut_queued is s

/-- Step 1: the bound packets are returned. -/
theorem forEach_returnSlot {ks : List SlotIx} (h : Returnable (ks.filterMap s.boundAt) s) :
    forEach returnSlot ks s = .next ((ks.filterMap s.boundAt).foldl State.poolPut s) := by
  induction ks generalizing s with
  | nil => rfl
  | cons k ks ih =>
    rw [forEach]
    cases hk : s.boundAt k with
    | none =>
      rw [List.filterMap_cons_none hk] at h ⊢
      rw [returnSlot_none hk]
      exact ih h
    | some i =>
      rw [List.filterMap_cons_some hk] at h ⊢
      obtain ⟨hlt, hfree, hrest⟩ := h.cons
      rw [returnSlot_some hk, poolReturn_next hlt hfree]
      rw [← poolPut_boundAt s i] at hrest
      change forEach returnSlot ks _ = _
      rw [ih hrest, poolPut_boundAt]
      rfl

theorem tornDown_poolPut (s : State) (e : Ep) (i : Nat) : (s.tornDown e).poolPut i = (s.poolPut i).tornDown e := by
  cases hs : s.cfg.allocStrategy with
  | sharedBitmap =>
    rw [poolPut_shared hs, poolPut_shared (s := s.tornDown e) hs]
    rfl
  | segregated =>
    rw [poolPut_segregated hs, poolPut_segregated (s := s.tornDown e) hs]
    rfl

theorem foldl_poolPut_tornDown (is : List Nat) (s : State) (e : Ep) :
    is.foldl State.poolPut (s.tornDown e) = (is.foldl State.poolPut s).tornDown e := by
  induction is generalizing s with
  | nil => rfl
  | cons i is ih => rw [List.foldl_cons, tornDown_poolPut, ih, List.foldl_cons]

theorem samePool_tornDown (s : State) (e : Ep) : SamePool s (s.tornDown e) := ⟨rfl, rfl⟩

theorem tornDown_queued_ne (h : f ≠ e) (s : State) : (s.tornDown f).queued e = s.queued e := by
  rw [State.queued, State.queued, endpoint_tornDown, if_neg h]

/-- Step 2 for one endpoint: its queues are returned, its record is torn down. -/
theorem tearDown_next (h : Returnable (s.queued e) s) :
    tearDown e s = .next (((s.queued e).foldl State.poolPut s).tornDown e) := by
  obtain ⟨hrx, htx⟩ := h.append
  rw [State.queued, List.foldl_append, tearDown, returnAll_next hrx]
  change andThen (returnAll (s.endpoint e).txq _) _ = _
  rw [returnAll_next htx]
  rfl

theorem forEach_tearDown (hl : l.Nodup) (h : Returnable (l.flatMap s.queued) s) :
    forEach tearDown l s = .next (l.foldl State.tornDown ((l.flatMap s.queued).foldl State.poolPut s)) := by
  induction l generalizing s with
  | nil => rfl
  | cons e l ih =>
    obtain ⟨he, hl'⟩ := List.nodup_cons.mp hl
    rw [List.flatMap_cons] at h ⊢
    obtain ⟨hhead, hrest⟩ := h.append
    have hqueued : l.flatMap (((s.queued e).foldl State.poolPut s).tornDown e).queued = l.flatMap s.queued :=
      List.flatMap_congr fun f hf => by
        rw [tornDown_queued_ne (ne_of_mem_of_not_mem hf he).symm, foldl_poolPut_queued]
    rw [forEach, tearDown_next hhead]
    change forEach tearDown l _ = _
    rw [ih hl' (hqueued ▸ hrest.of_samePool (samePool_tornDown _ e)), hqueued, foldl_poolPut_tornDown,
      List.foldl_append, List.foldl_cons]

theorem tearDownAll_next (h : s.teardownReady) :
    tearDownAll s = .next (s.cfg.endpoints.foldl State.tornDown s.poolReturned) := by
  obtain ⟨hbound, hqueued⟩ := Returnable.append (l := (Config.dataSlots s.cfg).filterMap s.boundAt)
    (l' := s.cfg.endpoints.flatMap s.queued) h
  rw [tearDownAll, forEach_returnSlot hbound]
  change forEach tearDown s.cfg.endpoints _ = _
  rw [← foldl_poolPut_queued] at hqueued
  rw [forEach_tearDown (endpoints_nodup _) hqueued, foldl_poolPut_queued, ← List.foldl_append]
  rfl

/-! ## Before the teardown: the configuration recorded, no endpoint starved -/

section
variable (s : State) (v : Byte)

theorem beginConfiguration_keeps {α : Type} {f : State → α} (hrec : ∀ s v,
    f { s with ep0 := { s.ep0 with configuration := v } } = f s) (hstarved : ∀ s e, f (s.setStarved e false) = f s) :
    f (s.beginConfiguration v) = f s := (foldl_keeps hstarved _ _).trans (hrec s v)

theorem samePool_beginConfiguration : SamePool s (s.beginConfiguration v) :=
  ⟨beginConfiguration_keeps (f := State.cfg) s v (fun _ _ => rfl) fun _ _ => rfl,
    beginConfiguration_keeps (f := State.pool) s v (fun _ _ => rfl) fun _ _ => rfl⟩

theorem beginConfiguration_queued : (s.beginConfiguration v).queued = s.queued :=
  beginConfiguration_keeps (f := State.queued) s v (fun _ _ => rfl) fun t e => funext fun f => by
    rw [State.queued, State.queued, endpoint_setStarved]
    split <;> rfl

theorem beginConfiguration_tornPackets : (s.beginConfiguration v).tornPackets = s.tornPackets := by
  rw [tornPackets_eq, tornPackets_eq, beginConfiguration_queued, (samePool_beginConfiguration s v).1,
    beginConfiguration_keeps (f := State.boundAt) s v (fun _ _ => rfl) fun _ _ => rfl]

theorem beginConfiguration_teardownReady (h : s.teardownReady) : (s.beginConfiguration v).teardownReady := by
  have hready : Returnable s.tornPackets s := h
  change Returnable _ _
  rw [beginConfiguration_tornPackets]
  exact hready.of_samePool (samePool_beginConfiguration s v)

theorem samePool_poolReturned_beginConfiguration : SamePool s.poolReturned (s.beginConfiguration v).poolReturned := by
  rw [State.poolReturned, State.poolReturned, beginConfiguration_tornPackets]
  exact (samePool_beginConfiguration s v).foldl_poolPut _

end

end Sys2Proof.Machine
end

section
/-! SET_CONFIGURATION (spec/44_control_transfer.md R247), step 3: each endpoint is enabled by itself, its receive banks
taking in order what ALLOC gives them. -/

namespace Sys2Proof.Machine

variable {s t u : State} {e f : Ep} {b : Bank} {k : SlotIx} {l : List Ep} {got : Bank → Option Nat → Prop}

/-! ## One receive bank provisioned -/

/-- What ALLOC answers for an endpoint. -/
abbrev State.allocFor (s : State) (e : Ep) : Option Nat := (s.allocate (e.setWidth 8)).1

theorem provision_cases (s : State) (e : Ep) (b : Bank) :
    s.provision e b = (s.allocFor e).elim ((s.allocate (e.setWidth 8)).2.setStarved e true)
      fun p => (s.allocate (e.setWidth 8)).2.armRx e b p := by
  unfold State.provision State.allocFor
  rcases s.allocate (e.setWidth 8) with ⟨_ | p, t⟩ <;> rfl

theorem samePool_provision (s : State) (e : Ep) (b : Bank) :
    SamePool (s.allocate (e.setWidth 8)).2 (s.provision e b) := by
  rw [provision_cases]
  cases s.allocFor e <;> exact ⟨rfl, rfl⟩

theorem provision_endpoint (s : State) (e : Ep) (b : Bank) (f : Ep) : (s.provision e b).endpoint f =
    if e = f then { s.endpoint f with starved := (s.endpoint f).starved || (s.allocFor e).isNone }
    else s.endpoint f := by
  rw [provision_cases, allocate_pool]
  cases s.allocFor e with
  | none =>
    refine (State.endpoint_setEndpoint ..).trans ?_
    split
    · next h =>
      rw [h, Option.isNone_none, Bool.or_true]
      rfl
    · rfl
  | some p =>
    change s.endpoint f = _
    simp

theorem provision_endptReg (s : State) (e : Ep) (b : Bank) (f : Ep) :
    (s.provision e b).endptReg f = s.endptReg f := by
  rw [provision_cases, allocate_pool]
  cases s.allocFor e <;> rfl

theorem provision_slot (s : State) (e : Ep) (b : Bank) (k : SlotIx) : (s.provision e b).slot k =
    if slotOf e .rx b = k then (s.allocFor e).elim (s.slot k)
      fun p => ⟨armedWord (BitVec.ofNat 10 s.cfg.pktCap) b.toggle, s.cfg.bufAddrs.getD p 0⟩
    else s.slot k := by
  rw [provision_cases, allocate_pool]
  cases s.allocFor e with
  | none =>
    change s.slot k = _
    simp
  | some p => exact State.slot_arm ..

/-! ## One endpoint enabled -/

/-- The record, the register and the slots of an endpoint are as before. -/
structure SameEp (s t : State) (e : Ep) : Prop where
  record : t.endpoint e = s.endpoint e
  reg : t.endptReg e = s.endptReg e
  slot : ∀ d b, t.slot (slotOf e d b) = s.slot (slotOf e d b)

/-- An endpoint configured, its four slots Unarmed, before any packet is allocated. -/
def State.readied (s : State) (e : Ep) : State := (s.configureEp e (s.cfg.epConfig.get e)).unarmEp e

theorem samePool_readied (s : State) (e : Ep) : SamePool s (s.readied e) := ⟨rfl, rfl⟩

theorem readied_endpoint (s : State) (e f : Ep) : (s.readied e).endpoint f =
    if e = f then { s.endpoint e with epCfg := s.cfg.epConfig.get e } else s.endpoint f := Tab.get_set ..

theorem readied_endptReg (s : State) (e f : Ep) : (s.readied e).endptReg f =
    if e = f then s.cfg.epConfig.get e &&& 0x1F else s.endptReg f := Tab.get_set ..

theorem readied_slot (s : State) (e f : Ep) (d : Dir) (b : Bank) : (s.readied e).slot (slotOf f d b) =
    if e = f then ⟨0, (s.slot (slotOf f d b)).addr⟩ else s.slot (slotOf f d b) := by
  have hslot : ∀ k, (s.configureEp e (s.cfg.epConfig.get e)).slot k = s.slot k := fun _ => rfl
  by_cases h : e = f
  · subst h
    cases d <;> cases b <;> simp [State.readied, State.unarmEp, State.slot_setDesc, slotOf_inj, hslot, unarmedWord]
  · simp [State.readied, State.unarmEp, State.slot_setDesc, slotOf_inj, hslot, h]

theorem enableEp_disabled (h : epcRxen (s.cfg.epConfig.get e) = false) : s.enableEp e = s.readied e := by
  unfold State.enableEp
  rw [h]
  rfl

theorem enableEp_enabled (h : epcRxen (s.cfg.epConfig.get e) = true) :
    s.enableEp e = ((s.readied e).provision e .even).provision e .odd := by
  unfold State.enableEp
  rw [h]
  rfl

/-- The receive banks of one endpoint that are provisioned. -/
def rxRequestsOf (c : Config) (e : Ep) : List (Ep × Bank) :=
  if epcRxen (c.epConfig.get e) then [(e, .even), (e, .odd)] else []

theorem samePool_enableEp (s : State) (e : Ep) : SamePool (allocEach (rxRequestsOf s.cfg e) s).2 (s.enableEp e) := by
  rw [rxRequestsOf]
  split
  · next h =>
    rw [enableEp_enabled h]
    have heven := ((samePool_readied s e).allocate (e.setWidth 8)).2.trans (samePool_provision (s.readied e) e .even)
    exact (heven.allocate (e.setWidth 8)).2.trans (samePool_provision _ e .odd)
  · next h =>
    rw [enableEp_disabled (Bool.eq_false_iff.mpr h)]
    exact samePool_readied s e

theorem sameEp_enableEp (h : f ≠ e) (s : State) : SameEp s (s.enableEp f) e := by
  cases hrx : epcRxen (s.cfg.epConfig.get f) with
  | false =>
    rw [enableEp_disabled hrx]
    constructor <;> simp [readied_endpoint, readied_endptReg, readied_slot, h]
  | true =>
    rw [enableEp_enabled hrx]
    constructor <;> simp [provision_endpoint, provision_endptReg, provision_slot, readied_endpoint, readied_endptReg,
      readied_slot, slotOf_inj, h]

/-- What enabling leaves of an endpoint, `got` saying which packet ALLOC gave each bank that asked. -/
structure Enabled (s t : State) (e : Ep) (got : Bank → Option Nat → Prop) : Prop where
  record : t.endpoint e =
    { s.endpoint e with epCfg := s.cfg.epConfig.get e, starved := (t.endpoint e).starved }
  starved : (t.endpoint e).starved = true ↔ (s.endpoint e).starved = true ∨ ∃ b, got b none
  reg : t.endptReg e = s.cfg.epConfig.get e &&& 0x1F
  tx : ∀ b, t.slot (slotOf e .tx b) = ⟨0, (s.slot (slotOf e .tx b)).addr⟩
  armed : ∀ b p, got b (some p) → t.slot (slotOf e .rx b) =
    ⟨armedWord (BitVec.ofNat 10 s.cfg.pktCap) b.toggle, s.cfg.bufAddrs.getD p 0⟩
  unarmed : ∀ b, (got b none ∨ ∀ x, ¬ got b x) →
    t.slot (slotOf e .rx b) = ⟨0, (s.slot (slotOf e .rx b)).addr⟩

theorem exists_bank {q : Bank → Prop} : (∃ b, q b) ↔ q .even ∨ q .odd :=
  ⟨fun ⟨b, hb⟩ => by cases b <;> simp [hb], fun h => h.elim (.intro _) (.intro _)⟩

/-- Both banks provisioned: EVEN, then ODD. -/
theorem enabled_provisioned (s : State) (e : Ep) (x : Bank → Option Nat) (heven : (s.readied e).allocFor e = x .even)
    (hodd : ((s.readied e).provision e .even).allocFor e = x .odd) :
    Enabled s (((s.readied e).provision e .even).provision e .odd) e fun b y => y = x b := by
  have hcfg : ((s.readied e).provision e .even).cfg = s.cfg :=
    (samePool_provision ..).1.trans (allocate_cfg ..)
  have hrx : ∀ b, (((s.readied e).provision e .even).provision e .odd).slot (slotOf e .rx b) =
      (x b).elim ⟨0, (s.slot (slotOf e .rx b)).addr⟩
        fun p => ⟨armedWord (BitVec.ofNat 10 s.cfg.pktCap) b.toggle, s.cfg.bufAddrs.getD p 0⟩ := fun b => by
    rw [provision_slot, provision_slot, readied_slot, heven, hodd, hcfg]
    cases b with
    | even => simp [slotOf_inj]; rfl
    | odd => simp [slotOf_inj]
  have hep : (((s.readied e).provision e .even).provision e .odd).endpoint e = { s.endpoint e with
      epCfg := s.cfg.epConfig.get e
      starved := (s.endpoint e).starved || (x .even).isNone || (x .odd).isNone } := by
    simp [provision_endpoint, readied_endpoint, heven, hodd]
  refine ⟨by rw [hep], ?_, ?_, fun b => ?_, fun b p hp => ?_, fun b hnone => ?_⟩
  · rw [hep]
    simp [exists_bank, or_assoc, eq_comm (a := none)]
  · simp [provision_endptReg, readied_endptReg]
  · simp [provision_slot, readied_slot, slotOf_inj]
  · rw [hrx, ← hp]
    rfl
  · rw [hrx, ← hnone.resolve_right fun h => h _ rfl]
    rfl

/-- What one endpoint's banks got is all that counts. -/
theorem enabled_enableEp (s : State) (e : Ep) :
    Enabled s (s.enableEp e) e fun b x => ((e, b), x) ∈ (allocEach (rxRequestsOf s.cfg e) s).1 := by
  cases hrx : epcRxen (s.cfg.epConfig.get e) with
  | false =>
    rw [enableEp_disabled hrx, rxRequestsOf, hrx]
    constructor <;> simp [readied_endpoint, readied_endptReg, readied_slot, allocEach]
  | true =>
    have heven := (samePool_readied s e).allocate (e.setWidth 8)
    have hodd := (heven.2.trans (samePool_provision (s.readied e) e .even)).allocate (e.setWidth 8)
    have hgot : (fun b x => ((e, b), x) ∈ (allocEach (rxRequestsOf s.cfg e) s).1) = fun b x =>
        x = Bank.rec (s.allocFor e) ((s.allocate (e.setWidth 8)).2.allocFor e) b := by
      funext b x
      rw [rxRequestsOf, hrx]
      cases b <;> simp [allocEach]
    rw [enableEp_enabled hrx, hgot]
    exact enabled_provisioned s e _ heven.1 hodd.1

/-! ## Every endpoint enabled -/

theorem SameEp.refl (s : State) (e : Ep) : SameEp s s e := ⟨rfl, rfl, fun _ _ => rfl⟩

theorem SameEp.trans (h : SameEp s t e) (h' : SameEp t u e) : SameEp s u e :=
  ⟨h'.record.trans h.record, h'.reg.trans h.reg, fun d b => (h'.slot d b).trans (h.slot d b)⟩

theorem Enabled.of_sameEp (hcfg : t.cfg = s.cfg) (h : SameEp s t e) (h' : Enabled t u e got) : Enabled s u e got := by
  obtain ⟨hrecord, -, hslot⟩ := h
  obtain ⟨hrec, hst, hreg, htx, harm, hun⟩ := h'
  rw [hrecord, hcfg] at hrec
  rw [hrecord] at hst
  rw [hcfg] at hreg harm
  simp only [hslot] at htx hun
  exact ⟨hrec, hst, hreg, htx, harm, hun⟩

theorem Enabled.trans_sameEp (h : Enabled s t e got) (h' : SameEp t u e) : Enabled s u e got := by
  obtain ⟨hrecord, hreg', hslot⟩ := h'
  obtain ⟨hrec, hst, hreg, htx, harm, hun⟩ := h
  rw [← hrecord] at hrec hst
  rw [← hreg'] at hreg
  simp only [← hslot] at htx harm hun
  exact ⟨hrec, hst, hreg, htx, harm, hun⟩

theorem enableEp_cfg (s : State) (e : Ep) : (s.enableEp e).cfg = s.cfg :=
  (samePool_enableEp s e).1.trans (allocEach_cfg _ s)

theorem rxRequests_eq (c : Config) : Config.rxRequests c = c.endpoints.flatMap (rxRequestsOf c) := by
  rw [Config.rxRequests]
  induction c.endpoints with
  | nil => rfl
  | cons e l ih =>
    rw [List.flatMap_cons, List.filter_cons, ← ih, rxRequestsOf]
    split <;> rfl

theorem mem_rxRequestsOf {c : Config} :
    (f, b) ∈ rxRequestsOf c e ↔ f = e ∧ epcRxen (c.epConfig.get e) = true := by
  rw [rxRequestsOf]
  cases b <;> split <;> simp [*]

/-- The key of an answer is a request. -/
theorem mem_of_mem_allocEach {rs : List (Ep × Bank)} {r : Ep × Bank} {x : Option Nat}
    (h : (r, x) ∈ (allocEach rs s).1) : r ∈ rs := by
  rw [← allocEach_keys rs s]
  exact List.mem_map_of_mem h

/-- Each request has an answer. -/
theorem exists_mem_allocEach {rs : List (Ep × Bank)} {r : Ep × Bank} (h : r ∈ rs) (s : State) :
    ∃ x, (r, x) ∈ (allocEach rs s).1 := by
  rw [← allocEach_keys rs s] at h
  obtain ⟨⟨r, x⟩, hmem, rfl⟩ := List.mem_map.mp h
  exact ⟨x, hmem⟩

theorem sameEp_foldl_enableEp (he : e ∉ l) (s : State) : SameEp s (l.foldl State.enableEp s) e := by
  induction l generalizing s with
  | nil => exact .refl s e
  | cons f l ih =>
    rw [List.mem_cons, not_or] at he
    exact (sameEp_enableEp (Ne.symm he.1) s).trans (ih he.2 _)

theorem samePool_foldl_enableEp (l : List Ep) (s : State) :
    SamePool (allocEach (l.flatMap (rxRequestsOf s.cfg)) s).2 (l.foldl State.enableEp s) := by
  induction l generalizing s with
  | nil => exact .refl s
  | cons e l ih =>
    rw [List.flatMap_cons, (allocEach_append ..).2]
    have hrest := ((samePool_enableEp s e).allocEach (l.flatMap (rxRequestsOf s.cfg))).2
    exact hrest.trans (by rw [← enableEp_cfg s e]; exact ih (s.enableEp e))

/-- Each endpoint of a pass is enabled with what its own banks got. -/
theorem enabled_foldl_enableEp (hl : l.Nodup) (he : e ∈ l) (s : State) :
    Enabled s (l.foldl State.enableEp s) e fun b x =>
      ((e, b), x) ∈ (allocEach (l.flatMap (rxRequestsOf s.cfg)) s).1 := by
  induction l generalizing s with
  | nil => cases he
  | cons f l ih =>
    obtain ⟨hf, hl'⟩ := List.nodup_cons.mp hl
    have hrest := ((samePool_enableEp s f).allocEach (l.flatMap (rxRequestsOf s.cfg))).1
    rw [List.flatMap_cons, (allocEach_append ..).1, ← hrest]
    simp only [List.mem_append]
    by_cases hef : e = f
    · subst hef
      have hnot : ∀ b x, ((e, b), x) ∉ (allocEach (l.flatMap (rxRequestsOf s.cfg)) (s.enableEp e)).1 :=
          fun b x h => by
        obtain ⟨f, hfl, hmem⟩ := List.mem_flatMap.mp (mem_of_mem_allocEach h)
        exact hf ((mem_rxRequestsOf.mp hmem).1 ▸ hfl)
      simp only [hnot, or_false]
      exact (enabled_enableEp s e).trans_sameEp (sameEp_foldl_enableEp hf _)
    · have hnot : ∀ b x, ((e, b), x) ∉ (allocEach (rxRequestsOf s.cfg f) s).1 := fun b x h =>
        hef (mem_rxRequestsOf.mp (mem_of_mem_allocEach h)).1
      simp only [hnot, false_or]
      have hrec := ih hl' ((List.mem_cons.mp he).resolve_left hef) (s.enableEp f)
      rw [enableEp_cfg] at hrec
      exact .of_sameEp (enableEp_cfg s f) (sameEp_enableEp (Ne.symm hef) s) hrec

end Sys2Proof.Machine
end

section
/-! SET_CONFIGURATION put together (spec/44_control_transfer.md R247). -/

namespace Sys2Proof.Machine

variable {s t : State} {e : Ep} {g : List ((Ep × Bank) × Option Nat)}

/-! ## The state between the teardown and the enabling -/

/-- The configuration recorded, every packet returned, every endpoint torn down. -/
def State.tornAll (s : State) : State :=
  s.cfg.endpoints.foldl State.tornDown (s.beginConfiguration s.ep0.setup.configValue).poolReturned

theorem setConfiguration_next (h : s.teardownReady) : s.setConfiguration = .next s.tornAll.enableAll.statusIn := by
  rw [State.setConfiguration, tearDownAll_next (beginConfiguration_teardownReady s _ h),
    (samePool_beginConfiguration s _).1]
  rfl

theorem tornAll_keeps {α : Type} {f : State → α} (h : ∀ s e, f (s.tornDown e) = f s) (hpool : ∀ s i,
    f (s.poolPut i) = f s) : f s.tornAll = f (s.beginConfiguration s.ep0.setup.configValue) :=
  (foldl_keeps h _ _).trans (foldl_keeps hpool _ _)

theorem samePool_tornAll (s : State) : SamePool s.poolReturned s.tornAll :=
  (samePool_poolReturned_beginConfiguration s s.ep0.setup.configValue).trans
    ⟨foldl_keeps (f := State.cfg) (g := State.tornDown) (fun _ _ => rfl) _ _,
      foldl_keeps (f := State.pool) (g := State.tornDown) (fun _ _ => rfl) _ _⟩

theorem tornAll_cfg (s : State) : s.tornAll.cfg = s.cfg := (samePool_tornAll s).1.trans (foldl_poolPut_cfg _ s)

theorem tornAll_endpoint (s : State) (e : Ep) : s.tornAll.endpoint e =
    if e ∈ s.cfg.endpoints then { s.endpoint e with
      rxq := [], rxBytes := 0, txq := []
      txState := teardownBank s.cfg.teardownMap (s.endpoint e).txState
      starved := false, discipline := .unused }
    else s.endpoint e := by
  have hbegin : (s.beginConfiguration s.ep0.setup.configValue).endpoint e =
      if e ∈ s.cfg.endpoints then { s.endpoint e with starved := false } else s.endpoint e :=
    foldl_endpoint (g := fun t e => t.setStarved e false) (h := fun _ r => { r with starved := false })
      (fun _ _ => rfl) (fun t f e => endpoint_setStarved t f false e) (endpoints_nodup _) _ e
  have hpool : (s.beginConfiguration s.ep0.setup.configValue).poolReturned.endpoint e =
      (s.beginConfiguration s.ep0.setup.configValue).endpoint e :=
    foldl_keeps (f := fun t => t.endpoint e) (fun t i => by rw [poolPut_pool]; rfl) _ _
  have hcfg : (s.beginConfiguration s.ep0.setup.configValue).poolReturned.cfg = s.cfg :=
    (foldl_poolPut_cfg _ _).trans (samePool_beginConfiguration s _).1
  rw [State.tornAll, foldl_endpoint (g := State.tornDown) (h := fun c r => { r with
      rxq := [], rxBytes := 0, txq := [], txState := teardownBank c.teardownMap r.txState, discipline := .unused })
    (fun _ _ => rfl) endpoint_tornDown (endpoints_nodup _), hpool, hbegin, hcfg]
  split <;> rfl

/-! ## What the whole request keeps -/

/-- The state without its pool, and without what belongs to the endpoints: records, registers, slots. -/
def State.sansEndpoints (s : State) : State :=
  { s with
    regs := { s.regs with endpt := .fill 0 }
    bdt := .fill ⟨0, 0⟩
    pool := ⟨[], 0, .fill []⟩
    eps := .fill ⟨[], 0, [], .bothFreeEvenFirst, 0, .even, false, .unused⟩ }

theorem eq_of_sansEndpoints (h : t.sansEndpoints = s.sansEndpoints) : t = { s with
    regs := { s.regs with endpt := t.regs.endpt }, bdt := t.bdt, pool := t.pool, eps := t.eps } := by
  calc t = { t.sansEndpoints with
        regs := { t.sansEndpoints.regs with endpt := t.regs.endpt }, bdt := t.bdt, pool := t.pool, eps := t.eps } := rfl
    _ = _ := by rw [h]; rfl

theorem poolPut_sansEndpoints (s : State) (i : Nat) : (s.poolPut i).sansEndpoints = s.sansEndpoints := by
  rw [poolPut_pool]
  rfl

theorem provision_sansEndpoints (s : State) (e : Ep) (b : Bank) :
    (s.provision e b).sansEndpoints = s.sansEndpoints := by
  rw [provision_cases, allocate_pool]
  cases s.allocFor e <;> rfl

theorem enableEp_sansEndpoints (s : State) (e : Ep) : (s.enableEp e).sansEndpoints = s.sansEndpoints := by
  cases h : epcRxen (s.cfg.epConfig.get e) with
  | false => rw [enableEp_disabled h]; rfl
  | true => rw [enableEp_enabled h, provision_sansEndpoints, provision_sansEndpoints]; rfl

/-- The configuration recorded. -/
def State.recorded (s : State) : State :=
  { s with ep0 := { s.ep0 with configuration := s.ep0.setup.configValue } }

theorem tornAll_sansEndpoints (s : State) : s.tornAll.sansEndpoints = s.recorded.sansEndpoints :=
  (tornAll_keeps (f := State.sansEndpoints) (fun _ _ => rfl) poolPut_sansEndpoints).trans
    (foldl_keeps (f := State.sansEndpoints) (g := fun t e => t.setStarved e false) (fun _ _ => rfl) _ s.recorded)

/-- Between the two, the slots and the registers are those of before. -/
theorem tornAll_slot (s : State) (k : SlotIx) : s.tornAll.slot k = s.slot k :=
  (tornAll_keeps (f := fun t => t.slot k) (fun _ _ => rfl) fun t i => by rw [poolPut_pool]; rfl).trans
    (beginConfiguration_keeps (f := fun t => t.slot k) s _ (fun _ _ => rfl) fun _ _ => rfl)

theorem tornAll_endptReg (s : State) (e : Ep) : s.tornAll.endptReg e = s.endptReg e :=
  (tornAll_keeps (f := fun t => t.endptReg e) (fun _ _ => rfl) fun t i => by rw [poolPut_pool]; rfl).trans
    (beginConfiguration_keeps (f := fun t => t.endptReg e) s _ (fun _ _ => rfl) fun _ _ => rfl)

/-! ## Every endpoint enabled, before the status stage -/

/-- What the request makes of `s` before the status-stage IN is armed. -/
structure Reconfigured (s r : State) : Prop where
  /-- the pool is what ALLOC for each bank in turn leaves of the pool with every packet returned -/
  pool : SamePool (allocEach (Config.rxRequests s.cfg) s.poolReturned).2 r
  enabled : ∀ e ∈ s.cfg.endpoints, Enabled s.tornAll r e fun b x =>
    ((e, b), x) ∈ (allocEach (Config.rxRequests s.cfg) s.poolReturned).1
  kept : ∀ e ∉ s.cfg.endpoints, SameEp s r e
  frame : r.sansEndpoints = s.recorded.sansEndpoints

theorem reconfigured_enableAll (s : State) : Reconfigured s s.tornAll.enableAll := by
  have hsame := (samePool_tornAll s).allocEach (Config.rxRequests s.cfg)
  refine ⟨?_, fun e he => ?_, fun e he => ?_, ?_⟩
  · have h := samePool_foldl_enableEp s.tornAll.cfg.endpoints s.tornAll
    rw [tornAll_cfg, ← rxRequests_eq] at h
    rw [State.enableAll, tornAll_cfg]
    exact hsame.2.trans h
  · have h := enabled_foldl_enableEp (endpoints_nodup s.cfg) he s.tornAll
    rw [tornAll_cfg, ← rxRequests_eq, hsame.1] at h
    rw [State.enableAll, tornAll_cfg]
    exact h
  · refine .trans ⟨?_, tornAll_endptReg s e, fun d b => tornAll_slot s _⟩
      (sameEp_foldl_enableEp (tornAll_cfg s ▸ he) s.tornAll)
    rw [tornAll_endpoint, if_neg he]
  · exact (foldl_keeps enableEp_sansEndpoints _ _).trans (tornAll_sansEndpoints s)

section
variable {r : State} (h : Reconfigured s r)
include h

theorem Reconfigured.cfg : r.cfg = s.cfg := by rw [eq_of_sansEndpoints h.frame]; rfl

theorem Reconfigured.ep0 : r.ep0 = s.recorded.ep0 := by rw [eq_of_sansEndpoints h.frame]

theorem Reconfigured.mem : r.mem = s.mem := by rw [eq_of_sansEndpoints h.frame]; rfl

end

/-- The request: from `s` to the reconfigured state, and the status-stage IN armed in it. -/
theorem exec_reqSetConfiguration (h : s.teardownReady) (hsize : 0 < s.cfg.ep0Size) : ∃ r, Reconfigured s r ∧
    exec .reqSetConfiguration s = .next (r.ep0Transmit s.cfg.replyAddr 0) := by
  have hr := reconfigured_enableAll s
  refine ⟨_, hr, (setConfiguration_next h).trans (congrArg Host.Outcome.next ?_)⟩
  rw [statusIn_eq (by rwa [hr.cfg]), hr.cfg]

theorem teardownBank_bothFree (m : TeardownMap) (st : TxState) : TxState.bothFree (teardownBank m st) = true := by
  cases m <;> cases st <;> rfl

theorem mem_rxRequests {c : Config} {b : Bank} :
    (e, b) ∈ Config.rxRequests c ↔ e ∈ c.endpoints ∧ epcRxen (c.epConfig.get e) = true := by
  rw [rxRequests_eq, List.mem_flatMap]
  simp only [mem_rxRequestsOf]
  exact ⟨fun ⟨f, hf, hef, h⟩ => hef ▸ ⟨hf, h⟩, fun ⟨he, h⟩ => ⟨e, he, rfl, h⟩⟩

theorem slotOf_parts (k : SlotIx) : slotOf (slotEp k) (slotDir k) (slotBank k) = k := by
  revert k
  decide

/-! ## The statement's parts -/

section
variable {r : State} (h : Reconfigured s r)
include h

/-- What the request leaves of one endpoint, `g` saying which packet each receive bank got. -/
theorem Reconfigured.endpoint (he : e ∈ s.cfg.endpoints)
    (hg : (allocEach (Config.rxRequests s.cfg) s.poolReturned).1 = g) :
    TxState.bothFree (r.endpoint e).txState = true ∧
    ((r.endpoint e).starved = true ↔ ∃ b, ((e, b), none) ∈ g) ∧
    r.endpoint e = {
      rxq := [], rxBytes := 0, txq := [],
      txState := teardownBank s.cfg.teardownMap (s.endpoint e).txState,
      epCfg := s.cfg.epConfig.get e, isoBank := (s.endpoint e).isoBank,
      starved := (r.endpoint e).starved, discipline := .unused } ∧
    r.endptReg e = s.cfg.epConfig.get e &&& 0x1F ∧
    (∀ b, r.slot (slotOf e .tx b) = ⟨0, (s.slot (slotOf e .tx b)).addr⟩) ∧
    (∀ b p, ((e, b), some p) ∈ g → r.slot (slotOf e .rx b) =
      ⟨armedWord (BitVec.ofNat 10 s.cfg.pktCap) b.toggle, s.cfg.bufAddrs.getD p 0⟩) ∧
    (∀ b, ((e, b), none) ∈ g → r.slot (slotOf e .rx b) = ⟨0, (s.slot (slotOf e .rx b)).addr⟩) ∧
    ((s.cfg.epConfig.get e).getLsbD 3 = true → ∀ b, ∃ p, ((e, b), p) ∈ g) ∧
    ((s.cfg.epConfig.get e).getLsbD 3 = false → (r.endpoint e).starved = false ∧
      ∀ b, r.slot (slotOf e .rx b) = ⟨0, (s.slot (slotOf e .rx b)).addr⟩) := by
  subst hg
  obtain ⟨hrecord, hstarved, hreg, htx, harmed, hunarmed⟩ := h.enabled e he
  rw [tornAll_endpoint, if_pos he] at hrecord hstarved
  rw [tornAll_cfg] at hrecord hreg harmed
  simp only [tornAll_slot] at htx hunarmed
  simp only [Bool.false_eq_true, false_or] at hstarved
  refine ⟨?_, hstarved, hrecord, hreg, htx, harmed, fun b hb => hunarmed b (.inl hb),
    fun hrx b => exists_mem_allocEach (mem_rxRequests.mpr ⟨he, hrx⟩) _, fun hrx => ?_⟩
  · rw [hrecord]
    exact teardownBank_bothFree ..
  · have hnot : ∀ b x, ((e, b), x) ∉ (allocEach (Config.rxRequests s.cfg) s.poolReturned).1 := fun b x hmem =>
      Bool.false_ne_true (hrx.symm.trans (mem_rxRequests.mp (mem_of_mem_allocEach hmem)).2)
    exact ⟨Bool.eq_false_iff.mpr fun hst => (hstarved.mp hst).elim fun b => hnot b none,
      fun b => hunarmed b (.inr (hnot b))⟩

/-- The pool after the request, which the status-stage IN keeps: what was got, and what is free. -/
theorem Reconfigured.pktFree (ht : SamePool r t) (hready : s.teardownReady) (hsound : s.poolSound)
    (hg : (allocEach (Config.rxRequests s.cfg) s.poolReturned).1 = g) :
    (g.filterMap Prod.snd).Nodup ∧
    (∀ p ∈ g.filterMap Prod.snd, p < s.cfg.numBuffers) ∧
    (∀ i, i < s.cfg.numBuffers → (t.pktFree i = true ↔
      (s.pktFree i = true ∨ i ∈ s.tornPackets) ∧ i ∉ g.filterMap Prod.snd)) ∧
    (∀ e b, ((e, b), none) ∈ g → Exhausted s.cfg t e) := by
  subst hg
  have hpool := h.pool.trans ht
  have hcfg : s.poolReturned.cfg = s.cfg := foldl_poolPut_cfg _ s
  obtain ⟨hsound', hreturned⟩ := pktFree_foldl_poolPut (l := s.tornPackets) hsound hready
  have hrs : ∀ r ∈ Config.rxRequests s.cfg, r.1 ∈ s.poolReturned.cfg.endpoints := fun r hr => by
    rw [hcfg]
    exact (mem_rxRequests.mp hr).1
  obtain ⟨hnodup, hlt, -, hfree⟩ := allocEach_tookEach hsound' hrs
  rw [← State.poolReturned, hcfg] at hlt hfree
  refine ⟨hnodup, hlt, fun i hi => ?_, fun e b hnone => ?_⟩
  · rw [hpool.pktFree, hfree i hi, State.poolReturned, hreturned]
  · exact (hcfg ▸ allocEach_exhausted hsound' hrs hnone).of_samePool hpool

/-- A slot past those of `N_EP` is no slot of endpoint 0 and is kept. -/
theorem Reconfigured.slot_past {k : SlotIx} (hk : 4 * (s.cfg.nEp.toNat + 1) ≤ k.toNat) :
    slotEp k ≠ 0 ∧ r.slot k = s.slot k := by
  have hval := slotOf_toNat (slotEp k) (slotDir k) (slotBank k)
  rw [slotOf_parts] at hval
  have hd := (slotDir k).bit.isLt
  have hb := (slotBank k).bit.isLt
  have hpast : s.cfg.nEp.toNat < (slotEp k).toNat := by omega
  refine ⟨fun h0 => by simp [h0] at hpast, ?_⟩
  rw [← slotOf_parts k]
  exact (h.kept _ fun hmem => absurd (mem_endpoints.mp hmem).2 (Nat.not_le.mpr hpast)).slot _ _

/-- The status-stage IN armed: one transmit slot of endpoint 0 and no other. -/
theorem Reconfigured.armedOne : (r.ep0Transmit s.cfg.replyAddr 0).slot (slotOf 0 .tx s.ep0.txBank) =
      ⟨armedWord 0 s.ep0.txToggle, s.cfg.replyAddr⟩ ∧
    ∀ k, k ≠ slotOf 0 .tx s.ep0.txBank → (r.ep0Transmit s.cfg.replyAddr 0).slot k = r.slot k := by
  obtain ⟨harmed, hsame, -⟩ := armedOne_ep0Transmit r s.cfg.replyAddr 0
  rw [h.ep0] at harmed hsame
  exact ⟨harmed, fun k hk => hsame k (mt List.mem_singleton.mp hk)⟩

theorem Reconfigured.frame_ep0Transmit : (r.ep0Transmit s.cfg.replyAddr 0).sansEndpoints =
    State.sansEndpoints { s with ep0 := { s.recorded.ep0 with
      txToggle := s.ep0.txToggle.flip, txBank := s.ep0.txBank.flip } } := by
  obtain ⟨-, -, hep0⟩ := armedOne_ep0Transmit r s.cfg.replyAddr 0
  calc (r.ep0Transmit s.cfg.replyAddr 0).sansEndpoints
      = { r.sansEndpoints with ep0 := (r.ep0Transmit s.cfg.replyAddr 0).ep0 } := rfl
    _ = _ := by rw [hep0, h.ep0, h.frame]; rfl

end

/-- Settles O51: the teardown returns every packet, each endpoint is enabled by itself with what ALLOC gives its banks
from the pool that is left, and the status-stage IN is armed on endpoint 0, which neither touches. -/
theorem setConfigurationTearsDown : Obligations.SetConfigurationTearsDown := by
  intro s g u hready hsize halloc
  have hg : (allocEach (Config.rxRequests s.cfg) s.poolReturned).1 = g := congrArg Prod.fst halloc
  have hzero : (0 : Ep) ∉ s.cfg.endpoints := fun h => absurd (mem_endpoints.mp h).1 (by decide)
  obtain ⟨r, hr, hexec⟩ := exec_reqSetConfiguration hready hsize
  obtain ⟨harmed, hsame⟩ := hr.armedOne
  have hother : ∀ e d b, e ≠ 0 → (r.ep0Transmit s.cfg.replyAddr 0).slot (slotOf e d b) = r.slot (slotOf e d b) :=
    fun e d b he => hsame _ fun h => he (slotOf_inj.mp h).1
  refine ⟨r.ep0Transmit s.cfg.replyAddr 0, hexec, ?_, fun e hlo hhi => ?_, fun hsound => ?_, harmed,
    fun d b hne => ?_, fun k hk => ?_, fun e he => ?_, eq_of_sansEndpoints hr.frame_ep0Transmit, fun a => ?_⟩
  · exact hr.pool.2.trans (by rw [halloc])
  · have hslot : ∀ d b, (r.ep0Transmit s.cfg.replyAddr 0).slot (slotOf e d b) = r.slot (slotOf e d b) :=
      fun d b => hother e d b fun h0 => by simp [h0] at hlo
    simp only [hslot]
    exact hr.endpoint (mem_endpoints.mpr ⟨hlo, hhi⟩) hg
  · exact hr.pktFree (t := r.ep0Transmit s.cfg.replyAddr 0) ⟨rfl, rfl⟩ hready hsound hg
  · exact (hsame _ hne).trans ((hr.kept 0 hzero).slot d b)
  · obtain ⟨hk0, hkept⟩ := hr.slot_past hk
    rw [← hkept, ← slotOf_parts k]
    exact hother _ _ _ hk0
  · obtain ⟨hrecord, hreg, -⟩ := hr.kept e fun hmem => by
      have := mem_endpoints.mp hmem
      omega
    exact ⟨hrecord, hreg⟩
  · exact congrArg (fun m => memGet m a.toNat) hr.mem

end Sys2Proof.Machine
end

section
/-! The condition handlers (spec/45_dispatcher.md R302, R310 to R316): what each writes, and that nothing else is
written. -/

namespace Sys2Proof.Machine

variable {s t : State}

/-! ## Registers as read -/

theorem istatReg_eq_zero (hflags : s.regs.istat = 0) (hfifo : s.regs.statFifo = []) : s.istatReg = 0 := by
  rw [State.istatReg, hflags, hfifo]
  rfl

theorem ctlReg_eq_enable (hen : s.regs.ctlEnable = true) (hodd : s.regs.ctlOddrst = false)
    (hsus : s.regs.suspended = false) : s.ctlReg = 0x01 := by
  rw [State.ctlReg, hen, hodd, hsus]
  rfl

/-- The flag of a start of frame is stored where it is read, unlike `tokdne` (R302, spec/10_state.md R32). -/
theorem istatReg_clearIstat_sof (s : State) : (s.clearIstat 0x04).istatReg = s.istatReg &&& 0xFB := by
  have hread : ∀ v : Byte, (v &&& 0xFB) &&& 0xF7 = (v &&& 0xF7) &&& 0xFB ∧
      v &&& 0xFB ||| 0x08 = (v ||| 0x08) &&& 0xFB := by decide
  change (if s.regs.statFifo.isEmpty then _ else _) = _
  unfold State.istatReg
  split
  · exact (hread _).1
  · exact (hread _).2

/-! ## Bus initialisation (R316) -/

theorem exec_busInit (hmask : s.ctx.irqMask = false) (hisr : s.ctx.inIsr = false)
    (halign : s.cfg.bdtBase.toNat % s.cfg.bdtAlign = 0) : exec .busInit s = .next s.busInit := by
  simp [exec, execBusInit, hmask, hisr, halign]

/-- Settles O18: the checks pass, and the state BUS.INIT leaves is written out field by field. -/
theorem busInitResult : Obligations.BusInitResult := by
  intro s hmask hisr halign
  exact ⟨s.busInit, exec_busInit hmask hisr halign, fun _ => Tab.get_fill .., rfl, fun _ => Tab.get_fill .., rfl, rfl,
    istatReg_eq_zero rfl rfl, rfl, rfl, rfl, rfl, fun _ _ => Tab.get_fill .., rfl, rfl, fun _ => Tab.get_fill ..,
    rfl, rfl, rfl, rfl, rfl, ctlReg_eq_enable rfl rfl rfl, rfl, rfl, rfl, fun _ => rfl⟩

/-! ## Bus reset (R310) -/

/-- The four slots of endpoint 0 after a bus reset; the transmit slots keep their address. -/
theorem resetEp0Slots_slot (s : State) (k : SlotIx) : s.resetEp0Slots.slot k =
    if k = slotOf 0 .tx .odd ∨ k = slotOf 0 .tx .even then ⟨0, (s.slot k).addr⟩
    else if k = slotOf 0 .rx .odd then ⟨armedWord (BitVec.ofNat 10 s.cfg.ep0Size) .data0, s.cfg.ep0RxAddrOdd⟩
    else if k = slotOf 0 .rx .even then ⟨armedWord (BitVec.ofNat 10 s.cfg.ep0Size) .data0, s.cfg.ep0RxAddrEven⟩
    else s.slot k := by
  simp only [State.resetEp0Slots, State.slot_setDesc, State.slot_arm, slotOf_inj, eq_comm (b := k)]
  split_ifs <;> simp_all [unarmedWord, Config.ep0Count]

theorem sameSlotsBut_resetEp0Slots (s : State) :
    SameSlotsBut [slotOf 0 .rx .even, slotOf 0 .rx .odd, slotOf 0 .tx .even, slotOf 0 .tx .odd] s s.resetEp0Slots := by
  intro k hk
  simp only [List.mem_cons, List.not_mem_nil, or_false, not_or] at hk
  obtain ⟨hrxEven, hrxOdd, htxEven, htxOdd⟩ := hk
  rw [resetEp0Slots_slot, if_neg (not_or.mpr ⟨htxOdd, htxEven⟩), if_neg hrxOdd, if_neg hrxEven]

/-- Settles O53: the two writes of `CTL` set the bank pointers and the enables; between them the slots and the other
registers are written. -/
theorem irqResetProcedure : Obligations.IrqResetProcedure := by
  intro s
  have hslot : ∀ k, s.irqReset.slot k = s.resetEp0Slots.slot k := fun k => rfl
  refine ⟨s.irqReset, rfl, fun _ _ => Tab.get_fill .., ?_, ?_, ?_, ?_,
    sameSlotsBut_resetEp0Slots s, ?_, fun e he => ?_, ?_, istatReg_eq_zero ?_ rfl, rfl, rfl,
    ctlReg_eq_enable rfl rfl (Bool.and_false _), rfl, rfl, rfl, fun _ => rfl⟩
  · simp [hslot, resetEp0Slots_slot, slotOf_inj]
  · simp [hslot, resetEp0Slots_slot, slotOf_inj]
  · simp [hslot, resetEp0Slots_slot]
  · simp [hslot, resetEp0Slots_slot]
  · exact Tab.get_set_self ..
  · exact Tab.get_set_ne _ _ fun h => he (List.mem_singleton.mpr h.symm)
  · exact BitVec.and_zero
  · exact BitVec.and_zero

/-! ## Start of frame (R302) -/

theorem tickHook_quiet (h : s.env.tickScripts = []) : s.tickHook = .next s := by
  rw [State.tickHook, State.nextTickScript, h]
  rfl

theorem exec_irqSof_unconfigured (h : s.ep0.configuration = 0) : exec .irqSof s = .next (s.clearIstat 0x04) := by
  simp [exec, execIrqSof, State.irqSof, h]

theorem exec_irqSof_configured (hconf : s.ep0.configuration ≠ 0) (hcount : s.countdown = t)
    (hhook : t.env.tickScripts = []) : exec .irqSof s = .next (t.clearIstat 0x04) := by
  rw [exec, execIrqSof, State.irqSof, if_pos (bne_iff_ne.mpr hconf), hcount, tickHook_quiet hhook, andThen_next]

theorem countdown_zero (h : s.ctx.rebootTimer = 0) : s.countdown = s := if_pos h

theorem countdown_one (h : s.ctx.rebootTimer = 1) : s.countdown = (s.setTimer 0).emit .rebootTrigger := by
  rw [State.countdown, if_neg (by omega), if_pos h]

theorem countdown_above (h : 1 < s.ctx.rebootTimer) : s.countdown = s.setTimer (s.ctx.rebootTimer - 1) := by
  rw [State.countdown, if_neg (by omega), if_neg (by omega)]

/-- Settles O54: the countdown by the value of the timer, then the flag cleared. -/
theorem irqSofCountsDown : Obligations.IrqSofCountsDown := by
  refine fun s hhook => ⟨fun h => ?_, fun hconf hlt => exec_irqSof_configured hconf (countdown_above hlt) hhook,
    fun hconf hone => exec_irqSof_configured hconf (countdown_one hone) hhook, istatReg_clearIstat_sof s, rfl⟩
  by_cases hconf : s.ep0.configuration = 0
  · exact exec_irqSof_unconfigured hconf
  · exact exec_irqSof_configured hconf (countdown_zero (h.resolve_left hconf)) hhook

/-! ## The other handlers (R311 to R314, spec/44_control_transfer.md R262) -/

/-- The value of `ERRSTAT` written back to it clears every bit that was set (R312). -/
theorem irqError_eq (s : State) : s.irqError = { s with
    ctx := { s.ctx with errSnapshot := s.regs.errStat }
    regs := { s.regs with errStat := 0, istat := s.regs.istat &&& 0xFD } } := by
  simp [State.irqError, State.clearErrStat, State.clearIstat]

/-- Settles O55: each handler's writes, of which only the clearing of `ERRSTAT` is more than one write of a constant. -/
theorem stallAndFlagHandlers : Obligations.StallAndFlagHandlers := fun s =>
  ⟨rfl, rfl, congrArg Host.Outcome.next (irqError_eq s), rfl, rfl, rfl⟩

end Sys2Proof.Machine
end

section
/-! The dispatcher's loop and the routing of a completion (spec/45_dispatcher.md R300, R303, R304, spec/60_exceptions.md
R351): one ISR step by the condition decoded, ROUTE by the route its status byte selects, EP0.HANDLE by the token
kind. -/

namespace Sys2Proof.Machine

variable {s : State} {st : Byte}

/-! ## One ISR step (R300) -/

/-- The conditions of a pass's `status` that the loop still tests from a point on (R300). -/
def IsrPoint.untested : IsrPoint → Byte
  | .top => 0xFF
  | .afterSof => 0xFB
  | .afterStall => 0x12
  | .afterError => 0x10

/-- The handling of a condition, and where the loop goes on with the pass's `status`, or that it returns (R300). -/
def State.handleCondition (s : State) (status : Byte) : Option Instr → Out
  | some .irqSof => andThen (exec .irqSof s) fun t => .next (t.isrAt .afterSof status)
  | some .irqTokdne => andThen (exec .irqTokdne s) fun t => .next (t.isrAt .top 0)
  | some .irqReset => andThen (exec .irqReset s) fun t => .next t.leaveIsr
  | some .irqStall => andThen (exec .irqStall s) fun t => .next (t.isrAt .afterStall status)
  | some .irqError => andThen (exec .irqError s) fun t => .next (t.isrAt .afterError status)
  | some .irqSleep => andThen (exec .irqSleep s) fun t => .next t.leaveIsr
  | _ => .next s.leaveIsr

/-- The loop's tests from a point on are those of the decoder on what is still untested. -/
theorem isrPass_eq (s : State) (p : IsrPoint) (v : Byte) :
    s.isrPass p v = s.handleCondition v (decodeIst (v &&& p.untested)) := by
  unfold State.isrPass decodeIst
  cases p <;> simp [IsrPoint.untested] <;> split_ifs <;> rfl

/-- Settles O3: at each of the four points the step handles the condition decoded from what is still untested. -/
theorem isrStepHandlesFirstCondition : Obligations.IsrStepHandlesFirstCondition := by
  intro s v w h
  have hstep : s.isrStep = s.handleCondition v (decodeIst w) := by
    rw [State.isrStep, isrPass_eq, State.passStatus]
    rcases h with ⟨hp, rfl, rfl⟩ | ⟨hp, rfl, rfl⟩ | ⟨hp, rfl, rfl⟩ | ⟨hp, rfl, rfl⟩
    all_goals rw [hp]
    · exact congrArg (fun w => s.handleCondition s.istatReg (decodeIst w)) BitVec.and_allOnes
    all_goals rfl
  have hhandle : ∀ c, decodeIst w = c → s.isrStep = s.handleCondition v c := fun c hc => hc ▸ hstep
  refine ⟨hhandle _, hhandle _, hhandle _, hhandle _, hhandle _, hhandle _, ?_⟩
  rintro (hc | hc | hc) <;> exact hhandle _ hc

/-! ## Taking the interrupt (spec/60_exceptions.md R346, R349) -/

theorem exec_irqEntry_running (h : s.ctx.inIsr = true) : exec .irqEntry s = s.isrStep := if_pos h

theorem exec_irqEntry_waits (hisr : s.ctx.inIsr = false)
    (h : s.ctx.irqMask = true ∨ s.istatReg &&& s.regs.intEn = 0) : exec .irqEntry s = .next s := by
  rcases h with h | h <;> simp [exec, execIrqEntry, State.mayStartIsr, State.lineAsserted, hisr, h]

theorem exec_irqEntry_starts (hisr : s.ctx.inIsr = false) (hmask : s.ctx.irqMask = false)
    (hline : s.istatReg &&& s.regs.intEn ≠ 0) : exec .irqEntry s = s.enterIsr.isrStep := by
  have hstart : s.mayStartIsr = true := by
    rw [State.mayStartIsr, State.lineAsserted, bne_iff_ne.mpr hline, hmask, hisr]
    rfl
  rw [exec, execIrqEntry, hisr, if_neg Bool.false_ne_true, if_pos hstart]

/-- Settles O59: the line and the two flags decide; a bus reset, where it is the first condition of the pass, ends
the run in the step that takes the interrupt. -/
theorem irqEntryTakesInterrupt : Obligations.IrqEntryTakesInterrupt := by
  refine fun s => ⟨exec_irqEntry_waits, exec_irqEntry_running, fun hisr hmask hline => ?_⟩
  have hstart := exec_irqEntry_starts hisr hmask hline
  refine ⟨hstart, fun hreset => ⟨s.irqReset, rfl, ?_⟩⟩
  obtain ⟨-, -, hstep, -⟩ := isrStepHandlesFirstCondition s.enterIsr s.istatReg s.istatReg (.inl ⟨rfl, rfl, rfl⟩)
  exact hstart.trans (hstep hreset)

/-! ## The routes (R304) -/

/-- What a route does with its status byte. -/
def State.runRoute (s : State) (st : Byte) : RouteKind → Out
  | .ep0 => s.ep0Handle st
  | .txdone => s.txdone (statEp st) (statBank st) (statSlot st)
  | .rxdoneZero => .next (s.rearmRx (statBank st) (statSlot st))
  | .rxdoneData => s.rxData (statEp st) (statBank st) (statSlot st)
  | .ignore => .next s

theorem route_eq (s : State) (st : Byte) : s.route st = s.runRoute st (s.routeKind st) := by
  unfold State.route State.routeKind classifyStat State.rxdone
  split_ifs
  · rfl
  · rfl
  all_goals cases statDir st <;> rfl

theorem exec_decodeStat (s : State) (st : Byte) :
    exec (decodeStat s.cfg (s.countOf (statSlot st)) st) s = s.runRoute st (s.routeKind st) := by
  have hkind : classifyStat s.cfg (s.countOf (statSlot st)) st = s.routeKind st := rfl
  rw [decodeStat, hkind]
  cases h : s.routeKind st with
  | ep0 => rw [exec, execRouteEp0, h]; rfl
  | txdone => rw [exec, execRouteTxdone, h]; rfl
  | rxdoneZero => rw [exec, execRouteRxdoneZero, h]; rfl
  | rxdoneData => rw [exec, execRouteRxdoneData, h]; rfl
  | ignore => rfl

theorem exec_decodeTok (s : State) (k : SlotIx) : exec (decodeTok k (s.tokOf k)) s = clearSuspend (s.ep0Sub k) := by
  unfold decodeTok State.ep0Sub
  cases classifyTok (s.tokOf k) <;> rfl

theorem irqTokdne_cons {rest : List Byte} (h : s.regs.statFifo = st :: rest) :
    exec .irqTokdne s = andThen (s.route st) fun t => .next (t.clearIstat 0x08) := by
  simp [exec, execIrqTokdne, State.irqTokdne, State.usedStat, State.statReg, h]

/-- Settles O4: the status byte is decoded as ROUTE classifies it, the token kind as EP0.HANDLE does. -/
theorem routingRunsDecodedInstruction : Obligations.RoutingRunsDecodedInstruction :=
  ⟨fun _ _ _ => irqTokdne_cons, fun s st => (route_eq s st).trans (exec_decodeStat s st).symm,
    fun s st => (exec_decodeTok s (statSlot st)).symm⟩

theorem routeKind_ep0 (h : statEp st = 0) : s.routeKind st = .ep0 := if_pos h

theorem routeKind_ignore (h : s.cfg.nEp.toNat < (statEp st).toNat) : s.routeKind st = .ignore := by
  have hne : statEp st ≠ 0 := fun h0 => by simp [h0] at h
  exact (if_neg hne).trans (if_pos h)

theorem exec_routeEp0 (h : s.routeKind st = .ep0) : exec (.routeEp0 st) s = s.ep0Handle st := by
  rw [exec, execRouteEp0, h]

/-- An IN completion of endpoint 0 as EP0.HANDLE takes it (spec/44_control_transfer.md R240). -/
theorem ep0Handle_in (h : s.tokOf (statSlot st) = 0x9) : s.ep0Handle st = .next (resumed s.ep0In) := by
  rw [State.ep0Handle, State.ep0Sub, h]
  exact clearSuspend_next _

theorem ep0Handle_other (h : classifyTok (s.tokOf (statSlot st)) = .other) : s.ep0Handle st = .next (resumed s) := by
  rw [State.ep0Handle, State.ep0Sub, h]
  exact clearSuspend_next s

/-- Settles O58: each status byte's route is looked up, and for endpoint 0 the token kind. -/
theorem routesOfStatusBytes : Obligations.RoutesOfStatusBytes := by
  refine ⟨fun s st hout => ?_, fun s b htok => ?_, fun s d b tok hout hin hsetup => ?_⟩
  · have hroute : s.route st = .next s := by rw [route_eq, routeKind_ignore hout]; rfl
    refine ⟨hroute, rfl, fun rest hfifo => ?_⟩
    rw [irqTokdne_cons hfifo, hroute, andThen_next, State.clearIstat, hfifo]
    rfl
  · have hkind : s.routeKind (statOf 0 .tx b) = .ep0 := routeKind_ep0 (statEp_statOf ..)
    have hhandle : s.ep0Handle (statOf 0 .tx b) = .next (resumed s.ep0In) :=
      ep0Handle_in (by rw [statSlot_statOf, htok])
    have hroute : s.route (statOf 0 .tx b) = .next (resumed s.ep0In) := by rw [route_eq, hkind]; exact hhandle
    refine ⟨resumed s.ep0In, clearSuspend_next _, hhandle, (exec_routeEp0 hkind).trans hhandle, hroute,
      fun rest hfifo => ?_⟩
    rw [irqTokdne_cons hfifo, hroute, andThen_next]
  · refine ⟨clearSuspend_next s, fun htok => ?_⟩
    have hhandle : s.ep0Handle (statOf 0 d b) = .next (resumed s) :=
      ep0Handle_other (by rw [statSlot_statOf, htok]; exact classifyTok_eq_other.mpr ⟨hsetup, hout, hin⟩)
    exact ⟨hhandle, (exec_routeEp0 (routeKind_ep0 (statEp_statOf ..))).trans hhandle⟩

end Sys2Proof.Machine
end

section
/-! The packet ALLOC gives (spec/41_allocator.md R172, R174): read backwards from what it answered, where it came
from in the free structure and what of the packets it leaves unchanged. -/

namespace Sys2Proof.Machine

variable {s t u : State} {e : Ep} {i : Nat} {q : Option Nat} {hint : Byte}

theorem allocate_shared (h : s.cfg.allocStrategy = .sharedBitmap) (hint : Byte) : s.allocate hint = s.allocShared := by
  rw [State.allocate, h]

theorem allocate_segregated (h : s.cfg.allocStrategy = .segregated) (hint : Byte) :
    s.allocate hint = s.allocSegregated hint := by
  rw [State.allocate, h]

theorem allocShared_eq_some (h : s.allocShared = (some i, t)) :
    firstFree s.pool.freeMap s.cfg.numBuffers = some i ∧ t = s.takeShared i := by
  cases hfirst : firstFree s.pool.freeMap s.cfg.numBuffers with
  | none => rw [allocShared_none hfirst] at h; cases h
  | some j => rw [allocShared_some hfirst] at h; cases h; exact ⟨rfl, rfl⟩

theorem allocSegregated_eq_some (h : s.allocSegregated hint = (some i, t)) :
    s.validEp hint = true ∧ ∃ rest, s.pool.freeList.get (epOf hint) = i :: rest ∧
      t = (s.setFreeList (epOf hint) rest).freshHeader i := by
  cases hep : s.validEp hint with
  | false => rw [allocSegregated_none (.inl hep)] at h; cases h
  | true =>
    cases hlist : s.pool.freeList.get (epOf hint) with
    | nil => rw [allocSegregated_none (.inr hlist)] at h; cases h
    | cons j rest => rw [allocSegregated_cons hep hlist] at h; cases h; exact ⟨rfl, rest, rfl, rfl⟩

theorem allocate_eq_none (h : s.allocate hint = (none, t)) : t = s := by
  unfold State.allocate State.allocShared State.allocSegregated at h
  split at h
  · split at h <;> cases h; rfl
  · split at h
    · split at h <;> cases h; rfl
    · cases h; rfl

theorem allocate_headers (h : s.allocate hint = (q, t)) :
    SameHeadersBut q.toList s t := by
  cases q with
  | none => exact allocate_eq_none h ▸ fun _ _ => rfl
  | some i =>
    cases hs : s.cfg.allocStrategy with
    | sharedBitmap =>
      rw [allocate_shared hs] at h
      obtain ⟨-, rfl⟩ := allocShared_eq_some h
      exact sameHeadersBut_freshHeader _ i
    | segregated =>
      rw [allocate_segregated hs] at h
      obtain ⟨-, rest, -, rfl⟩ := allocSegregated_eq_some h
      exact sameHeadersBut_freshHeader _ i

theorem allocate_takes_shared (hs : s.cfg.allocStrategy = .sharedBitmap)
    (h : s.allocate hint = (some i, t)) : s.pktFree i = true ∧ t.pktFree i = false := by
  rw [allocate_shared hs] at h
  obtain ⟨hfirst, rfl⟩ := allocShared_eq_some h
  obtain ⟨-, hbit, -⟩ := firstFree_eq_some.mp hfirst
  have hlt : i < 32 := Nat.lt_of_not_le fun hge => by simp [BitVec.getMsbD_of_ge _ _ hge] at hbit
  refine ⟨(pktFree_shared hs i).mpr ⟨hlt, hbit⟩, Bool.eq_false_iff.mpr fun hfree => ?_⟩
  obtain ⟨-, hbit'⟩ := (pktFree_shared (s := s.takeShared i) hs i).mp hfree
  change (s.pool.freeMap &&& ~~~(mapBit i)).getMsbD i = true at hbit'
  simp [getMsbD_mapBit, hlt] at hbit'

theorem allocate_takes_segregated (hs : s.cfg.allocStrategy = .segregated)
    (h : s.allocate (e.setWidth 8) = (some i, t)) : s.pool.freeList.get e = i :: t.pool.freeList.get e := by
  rw [allocate_segregated hs] at h
  obtain ⟨-, rest, hlist, rfl⟩ := allocSegregated_eq_some h
  rw [epOf_setWidth] at hlist ⊢
  rw [hlist]
  exact congrArg (i :: ·) (Tab.get_set_self ..).symm

theorem pktFree_of_allocate (he : e ∈ s.cfg.endpoints) (h : s.allocate (e.setWidth 8) = (some i, t)) :
    s.pktFree i = true := by
  cases hs : s.cfg.allocStrategy with
  | sharedBitmap => exact (allocate_takes_shared hs h).1
  | segregated =>
    refine (pktFree_segregated hs i).mpr ⟨e, he, ?_⟩
    rw [allocate_takes_segregated hs h]
    exact List.mem_cons_self

/-- What ALLOC for endpoint `e` answers and leaves of the packets, in terms of the free structure before it. -/
structure Supplied (s t : State) (e : Ep) (q : Option Nat) : Prop where
  headers : SameHeadersBut q.toList s t
  free : ∀ i, q = some i → s.pktFree i = true
  shared : s.cfg.allocStrategy = .sharedBitmap → ∀ i, q = some i → t.pktFree i = false
  segregated : s.cfg.allocStrategy = .segregated →
    ∀ i, q = some i → s.pool.freeList.get e = i :: t.pool.freeList.get e

theorem supplied_allocate (he : e ∈ s.cfg.endpoints) (h : s.allocate (e.setWidth 8) = (q, t)) :
    Supplied s t e q where
  headers := allocate_headers h
  free _ hi := pktFree_of_allocate he (hi ▸ h)
  shared hs _ hi := (allocate_takes_shared hs (hi ▸ h)).2
  segregated hs _ hi := allocate_takes_segregated hs (hi ▸ h)

theorem Supplied.of_samePool (h : Supplied s t e q) (htu : SamePool t u) : Supplied s u e q := by
  rw [htu.eq_with]
  exact ⟨h.headers, h.free, h.shared, h.segregated⟩

/-- The same packet is given in a state that differs outside the pool. -/
theorem allocate_of_samePool (h : SamePool s u) (halloc : s.allocate hint = (q, t)) :
    u.allocate hint = (q, { u with pool := t.pool }) := by
  obtain ⟨hq, -, hpool⟩ := h.allocate hint
  rw [halloc] at hq hpool
  exact Prod.ext hq ((allocate_pool u hint).trans (by rw [hpool]))

end Sys2Proof.Machine
end

section
/-! Completions of the other endpoints (spec/45_dispatcher.md R306 to R308): TXDONE as the release of the packet and
TX.COMPLETE, RXDONE as the packet queued and the slot armed with the packet ALLOC gives. -/

namespace Sys2Proof.Machine

variable {s t u : State} {e : Ep} {b : Bank} {i p : Nat} {q : Option Nat}

/-! ## The status byte of such a completion (R304) -/

section
variable (hlo : 1 ≤ e.toNat) (hhi : e.toNat ≤ s.cfg.nEp.toNat)
include hlo hhi

theorem exec_txdone (b : Bank) (k : SlotIx) : exec (.txdone e b k) s = s.txdone e b k :=
  if_pos (isEndpoint_eq_true.mpr ⟨hlo, hhi⟩)

theorem exec_rxdone (b : Bank) (k : SlotIx) : exec (.rxdone e b k) s = s.rxdone e b k :=
  if_pos (isEndpoint_eq_true.mpr ⟨hlo, hhi⟩)

theorem routeKind_endpoint (d : Dir) (b : Bank) : s.routeKind (statOf e d b) =
    if d = .tx then .txdone else if s.countOf (slotOf e d b) = 0 then .rxdoneZero else .rxdoneData := by
  have hne : e ≠ 0 := fun h => by simp [h] at hlo
  rw [State.routeKind, classifyStat, statEp_statOf, if_neg hne, if_neg (Nat.not_lt.mpr hhi), statDir_statOf,
    statSlot_statOf]
  cases d <;> rfl

theorem exec_routeTxdone (b : Bank) : exec (.routeTxdone (statOf e .tx b)) s = s.txdone e b (slotOf e .tx b) := by
  rw [exec, execRouteTxdone, routeKind_endpoint hlo hhi, if_pos rfl, statEp_statOf, statBank_statOf, statSlot_statOf]

theorem exec_routeRxdoneZero (h : s.countOf (slotOf e .rx b) = 0) :
    exec (.routeRxdoneZero (statOf e .rx b)) s = .next (s.rearmRx b (slotOf e .rx b)) := by
  rw [exec, execRouteRxdoneZero, routeKind_endpoint hlo hhi, if_neg (by decide), if_pos h, statBank_statOf,
    statSlot_statOf]

theorem exec_routeRxdoneData (h : s.countOf (slotOf e .rx b) ≠ 0) :
    exec (.routeRxdoneData (statOf e .rx b)) s = s.rxData e b (slotOf e .rx b) := by
  rw [exec, execRouteRxdoneData, routeKind_endpoint hlo hhi, if_neg (by decide), if_neg h, statEp_statOf,
    statBank_statOf, statSlot_statOf]

end

/-! ## TXDONE (R306) -/

/-- TXDONE once the release is known. -/
theorem txdone_released {k : SlotIx} (h : s.releaseSent k = .next u) (b : Bank) :
    s.txdone e b k = .next (u.completeTx e b) := by
  rw [State.txdone, h, andThen_next]

theorem txdone_refused {k : SlotIx} {r : Refusal} (h : s.releaseSent k = .refused r) (b : Bank) :
    s.txdone e b k = .refused r := by
  rw [State.txdone, h, andThen_refused]

theorem releaseSent_none {k : SlotIx} (h : s.pktOfAddr (s.slot k).addr = none) : s.releaseSent k = .next s := by
  rw [releaseSent_eq (by simp [h]), h]
  rfl

theorem releaseSent_loose {k : SlotIx} (h : s.pktOfAddr (s.slot k).addr = some p) (hloose : s.pktLoose p = true)
    (helse : s.pktCompletingElse k p = false) : s.releaseSent k = s.releaseTo p := by
  have hown : ∀ i, s.pktOfAddr (s.slot k).addr = some i → s.pktCompletingElse k i = false := fun i hi => by
    rw [h] at hi
    exact Option.some.inj hi ▸ helse
  rw [releaseSent_eq hown, h, State.release]
  simp [(lt_and_notFree_of_pktLoose hloose).2, hloose]

theorem releaseSent_busy {k : SlotIx} (h : s.pktOfAddr (s.slot k).addr = some p)
    (helse : s.pktCompletingElse k p = true) : s.releaseSent k = .refused .packetBusy := by
  simp [State.releaseSent, h, helse]

theorem redirect_cfg (h : s.redirect e i = .next u) : u.cfg = s.cfg :=
  congrArg Prod.fst (redirect_hookView s e i u h)

/-- Settles O56: the release of the packet is that of R176, to the pool or to a starved endpoint, and TX.COMPLETE runs
on the state it leaves. -/
theorem txDoneReleasesThenCompletes : Obligations.TxDoneReleasesThenCompletes := by
  intro s e b hlo hhi
  have hout : ∀ o, s.txdone e b (slotOf e .tx b) = o → exec (.txdone e b (slotOf e .tx b)) s = o ∧
      exec (.routeTxdone (statOf e .tx b)) s = o := fun o ho =>
    ⟨(exec_txdone hlo hhi b _).trans ho, (exec_routeTxdone hlo hhi b).trans ho⟩
  refine ⟨fun hnone => ?_, fun p hp hloose helse hpool => ?_, fun p f hp hloose helse htarget hconf => ?_,
    fun p hp helse => hout _ (txdone_refused (releaseSent_busy hp helse) b)⟩
  · obtain ⟨hdone, hroute⟩ := hout _ (txdone_released (releaseSent_none hnone) b)
    exact ⟨_, hdone, hroute, exec_txComplete hlo hhi b⟩
  · obtain ⟨hlt, hfree⟩ := lt_and_notFree_of_pktLoose hloose
    have hrelease : s.releaseSent (slotOf e .tx b) = .next (s.poolPut p.toNat) := by
      rw [releaseSent_loose hp hloose helse, releaseTo_pool hpool, poolReturn_next hlt hfree]
    obtain ⟨hdone, hroute⟩ := hout _ (txdone_released hrelease b)
    exact ⟨_, hdone, hroute, exec_txComplete hlo (by rwa [poolPut_cfg]) b⟩
  · obtain ⟨hlo', hhi'⟩ := mem_endpoints.mp (mem_endpoints_of_starvedTarget htarget)
    obtain ⟨hlt, hfree⟩ := lt_and_notFree_of_pktLoose hloose
    obtain ⟨u, hu⟩ := redirect_next hlt hfree f
    have hrelease : s.releaseSent (slotOf e .tx b) = .next u := by
      rw [releaseSent_loose hp hloose helse, releaseTo_redirect htarget hconf, hu]
    obtain ⟨hdone, hroute⟩ := hout _ (txdone_released hrelease b)
    exact ⟨_, u, (exec_redirect hlo' hhi' hloose).trans hu, exec_txComplete hlo (by rwa [redirect_cfg hu]) b, hdone,
      hroute⟩

/-! ## RXDONE (R307, R308) -/

/-- What the replacement of a receive buffer leaves, given what ALLOC answered. -/
structure Replaced (s t : State) (e : Ep) (b : Bank) (q : Option Nat) : Prop where
  slot : t.slot (slotOf e .rx b) = q.elim ⟨0, (s.slot (slotOf e .rx b)).addr⟩ fun i =>
    ⟨armedWord (BitVec.ofNat 10 s.cfg.pktCap) b.toggle, s.cfg.bufAddrs.getD i 0⟩
  sameSlots : SameSlotsBut [slotOf e .rx b] s t
  endpoint : t.endpoint e = { s.endpoint e with starved := q = none || (s.endpoint e).starved }
  sameEndpoints : SameEndpointsBut [e] s t
  frame : t = { s with bdt := t.bdt, pool := t.pool, eps := t.eps }

theorem Replaced.mem (h : Replaced s t e b q) : t.mem = s.mem := (congrArg State.mem h.frame :)

theorem replaced_replaceRx {P : Pool} (b : Bank)
    (h : s.allocate (e.setWidth 8) = (q, { s with pool := P })) :
    (s.replaceRx e b (slotOf e .rx b)).pool = P ∧ Replaced s (s.replaceRx e b (slotOf e .rx b)) e b q := by
  rw [State.replaceRx, h]
  cases q with
  | none => exact ⟨rfl, Tab.get_set_self .., fun k hk => Tab.get_set_ne _ _ fun h => hk (List.mem_singleton.mpr h.symm),
      endpoint_setEndpoint_self .., sameEndpointsBut_setEndpoint _ e _, rfl⟩
  | some i => exact ⟨rfl, Tab.get_set_self .., sameSlotsBut_arm _ e .rx b _ _ _, by simp; rfl, fun _ _ => rfl, rfl⟩

theorem rxData_next {n : Nat} {k : SlotIx} (hp : s.pktOfAddr (s.slot k).addr = some p)
    (hn : n = (s.countOf k).toNat) (hpos : 0 < n) (hqueued : s.pktQueued p = false) (hfree : s.pktFree p = false)
    (hu : u = s.setPkt p ⟨n, 0, (s.pkt p).owner⟩) :
    s.rxData e b k = .next ((u.rxAppend e p).replaceRx e b k) := by
  subst hn hu
  have hlen : ((s.setPkt p ⟨(s.countOf k).toNat, 0, (s.pkt p).owner⟩).pkt p).len ≠ 0 := by
    rw [State.pkt_setPkt, if_pos rfl]
    exact Nat.ne_of_gt hpos
  rw [State.rxData, hp]
  exact andThen_eq_next.mpr ⟨_, rxEnqueue_eq_next.mpr ⟨hqueued, hfree, hlen, rfl⟩, rfl⟩

/-- Settles O57: the packet is queued with its length, and the slot gets what ALLOC answers; a packet that is
not free is not the one ALLOC gives. -/
theorem rxDoneQueuesAndReplaces : Obligations.RxDoneQueuesAndReplaces := by
  intro s e b k hk hlo hhi
  subst hk
  have hdone : s.countOf (slotOf e .rx b) ≠ 0 → exec (.rxdone e b (slotOf e .rx b)) s = s.rxData e b (slotOf e .rx b) :=
    fun hcount => (exec_rxdone hlo hhi b _).trans (if_neg hcount)
  refine ⟨fun hzero => ⟨?_, exec_routeRxdoneZero hlo hhi hzero⟩, fun hcount hnone => ?_, ?_⟩
  · exact (exec_rxdone hlo hhi b _).trans (if_pos hzero)
  · rw [hdone hcount, State.rxData, hnone]
  · intro p n u v q hn hpos hp hqueued hfree hu halloc
    have hcount : s.countOf (slotOf e .rx b) ≠ 0 := fun h =>
      Nat.ne_of_gt hpos (hn.trans (congrArg BitVec.toNat h))
    have hdata := rxData_next (e := e) (b := b) hp hn hpos hqueued hfree hu
    have hroom : SamePool u (u.rxAppend e p) := ⟨rfl, rfl⟩
    obtain ⟨hpool, hrep⟩ := replaced_replaceRx b (allocate_of_samePool hroom halloc)
    have hcfg : v.cfg = u.cfg := by rw [← allocate_cfg u (e.setWidth 8), halloc]
    have hheader : u.pkt p = ⟨n, 0, (s.pkt p).owner⟩ := by rw [hu, State.pkt_setPkt, if_pos rfl]
    have he : e ∈ u.cfg.endpoints := by rw [hu]; exact mem_endpoints.mpr ⟨hlo, hhi⟩
    have hsup := (supplied_allocate he halloc).of_samePool ⟨(congrArg State.cfg hrep.frame).trans hcfg.symm, hpool⟩
    subst hu
    have hgiven : p ∉ q.toList := fun hmem => by
      have hpfree : s.pktFree p = true := hsup.free p (Option.mem_toList.mp hmem)
      rw [hfree] at hpfree
      cases hpfree
    refine ⟨_, (hdone hcount).trans hdata, (exec_routeRxdoneData hlo hhi hcount).trans hdata, hpool,
      (hsup.headers p hgiven).trans hheader, fun j hj => ?_, fun i hi => ?_, ?_, hrep.sameSlots, ?_, fun f hf => ?_,
      hrep.frame, fun a => congrArg (memGet · a.toNat) hrep.mem⟩
    · obtain ⟨hjp, hjq⟩ := not_or.mp (fun h => hj (List.mem_cons.mpr h))
      rw [hsup.headers j hjq, State.pkt_setPkt, if_neg (Ne.symm hjp)]
    · cases hs : s.cfg.allocStrategy with
      | sharedBitmap => exact ⟨hsup.free i hi, hsup.shared hs i hi⟩
      | segregated => exact hsup.segregated hs i hi
    · exact hrep.slot.trans (by cases q <;> rfl)
    · rw [hrep.endpoint, State.rxAppend, endpoint_setEndpoint_self, hheader]
      rfl
    · exact (hrep.sameEndpoints f hf).trans (sameEndpointsBut_setEndpoint _ e _ f hf)

end Sys2Proof.Machine
end

section
/-! The critical section (spec/60_exceptions.md R353) and SET_REBOOT_TIMER (spec/45_dispatcher.md R318): what each does
where it is allowed, and its refusal where it is not. -/

namespace Sys2Proof.Machine

variable {s : State}

/-! ## The critical section (R353) -/

theorem exec_csEnter_outside (h : s.ctx.irqMask = false) : exec .csEnter s = .next (s.setIrqMask true) :=
  if_neg (Bool.eq_false_iff.mp h)

theorem exec_csEnter_inside (h : s.ctx.irqMask = true) : exec .csEnter s = .refused .nestedSection := if_pos h

theorem exec_csExit_inside (h : s.ctx.irqMask = true) : exec .csExit s = .next (s.setIrqMask false) := if_pos h

theorem exec_csExit_outside (h : s.ctx.irqMask = false) : exec .csExit s = .refused .noSection :=
  if_neg (Bool.eq_false_iff.mp h)

/-! ## The reboot timer (R318) -/

theorem armTimer_within {n : Nat} (h : n ≤ s.cfg.timerMax) : s.armTimer n = .next (s.setTimer n) :=
  if_neg (Nat.not_lt.mpr h)

theorem armTimer_above {n : Nat} (h : s.cfg.timerMax < n) : s.armTimer n = .refused .timerAboveMax := if_pos h

/-- Settles O20: CS.ENTER and CS.EXIT by the value of `irq_mask`, SET_REBOOT_TIMER by its operand against
`TIMER_MAX`. -/
theorem sectionAndTimer : Obligations.SectionAndTimer :=
  ⟨fun _ houtside => ⟨exec_csEnter_outside houtside, exec_csExit_outside houtside⟩,
    fun _ hinside => ⟨exec_csExit_inside hinside, exec_csEnter_inside hinside⟩,
    fun _ _ hwithin => armTimer_within hwithin,
    fun _ _ habove => armTimer_above habove⟩

end Sys2Proof.Machine
end

section
/-! The state after reset (spec/70_reset_and_hazards.md R381, R382; log 4): it meets the invariants every step keeps,
whatever the parameters. -/

namespace Sys2Proof.Machine

variable (c : Config)

/-- Every slot is unarmed (spec/40_bdt_link.md R142). -/
theorem initial_ruleForms : (State.initial c).ruleForms := fun k => by
  rw [State.slot_def, State.initial, Tab.get_fill]
  exact .unarmed

theorem initial_txQueuesOk : (State.initial c).txQueuesOk := fun e => by
  rw [State.endpoint_def, State.initial, Tab.get_fill]
  exact .inl rfl

theorem initial_statQueueOk : (State.initial c).statQueueOk := ⟨Nat.zero_le _, List.forall_mem_nil _⟩

theorem initial_reservedOk : (State.initial c).reservedOk := by
  refine ⟨fun e => ?_, BitVec.zero_and⟩
  rw [State.endptReg_def, State.initial, Regs.init, Tab.get_fill]
  exact BitVec.zero_and

/-- Settles O10: the table is unarmed, the queues are empty, the registers and the timer 0, and memory lists no
byte. -/
theorem resetMeetsInvariants : Obligations.ResetMeetsInvariants :=
  have hrule := initial_ruleForms Config.default
  ⟨rfl, fun k => (hrule k).isDescWord, hrule, initial_txQueuesOk _, initial_statQueueOk _, initial_reservedOk _,
    Nat.zero_le _⟩

end Sys2Proof.Machine
end

section
/-! The free structure BUS.INIT builds (spec/41_allocator.md R171, R173; spec/45_dispatcher.md R316) holds every packet
of well-formed parameters (spec/70_reset_and_hazards.md R382). -/

namespace Sys2Proof.Machine

variable {c : Config} {s t : State} {i : Nat}

/-! ## What well-formed parameters say of the pool (spec/00_scope.md R5) -/

theorem numBuffers_le_of_wf (hwf : c.wf = true) (hs : c.allocStrategy = .sharedBitmap) : c.numBuffers ≤ 32 := by
  simp only [Config.wf, hs, Bool.and_eq_true, decide_eq_true_eq] at hwf
  tauto

theorem sum_poolSize_of_wf (hwf : c.wf = true) (hs : c.allocStrategy = .segregated) :
    (c.endpoints.map c.poolSize.get).sum = c.numBuffers := by
  simp only [Config.wf, hs, Bool.and_eq_true, decide_eq_true_eq] at hwf
  tauto

/-! ## SharedBitmap: the top `NUM_BUFFERS` bits are set (R171) -/

theorem getMsbD_initFreeMap (hs : c.allocStrategy = .sharedBitmap) (hn : c.numBuffers ≤ 32)
    (hi : i < c.numBuffers) : (initFreeMap c).getMsbD i = true := by
  rw [initFreeMap, hs, BitVec.getMsbD_shiftLeft, BitVec.getMsbD_allOnes]
  exact decide_eq_true (by omega)

/-! ## Segregated: every packet has an owner, and stands in its owner's list (R173) -/

theorem length_initOwners (hs : c.allocStrategy = .segregated) :
    (initOwners c).length = (c.endpoints.map c.poolSize.get).sum := by
  simp only [initOwners, hs, List.length_flatMap, List.length_replicate]

theorem endpoint_of_mem_initOwners (hs : c.allocStrategy = .segregated) {o : Nat} (ho : o ∈ initOwners c) :
    ∃ e ∈ c.endpoints, o = e.toNat := by
  rw [initOwners, hs] at ho
  obtain ⟨e, he, hoe⟩ := List.mem_flatMap.mp ho
  exact ⟨e, he, List.eq_of_mem_replicate hoe⟩

theorem exists_initOwner (hs : c.allocStrategy = .segregated) (hi : i < (initOwners c).length) :
    ∃ e ∈ c.endpoints, (initOwners c)[i]? = some e.toNat := by
  obtain ⟨e, he, howner⟩ := endpoint_of_mem_initOwners hs (List.getElem_mem hi)
  exact ⟨e, he, by rw [List.getElem?_eq_getElem hi, howner]⟩

/-- Cells set one after the other, each to a value of its own number: a cell reads its value where its number was among
them. -/
theorem get_foldl_set {w : Nat} {α : Type} (f : BitVec w → α) (k : BitVec w) (l : List (BitVec w)) (v : Tab w α) :
    (l.foldl (fun u j => u.set j (f j)) v).get k = if k ∈ l then f k else v.get k := by
  induction l generalizing v with
  | nil => simp
  | cons j l ih =>
    rw [List.foldl_cons, ih, Tab.get_set]
    by_cases hj : j = k
    · simp [hj]
    · simp [hj, Ne.symm hj]

theorem mem_initFreeList (hs : c.allocStrategy = .segregated) {e : Ep} (he : e ∈ c.endpoints) :
    i ∈ (initFreeList c).get e ↔ i < c.numBuffers ∧ (initOwners c)[i]? = some e.toNat := by
  simp only [initFreeList, hs]
  rw [get_foldl_set, if_pos he, List.mem_filter, List.mem_range, decide_eq_true_eq]

/-! ## Every packet is free -/

theorem pktFree_busInit (hwf : s.cfg.wf = true) (hi : i < s.cfg.numBuffers) : s.busInit.pktFree i = true := by
  cases hs : s.cfg.allocStrategy with
  | sharedBitmap =>
    have hn := numBuffers_le_of_wf hwf hs
    exact (pktFree_shared (s := s.busInit) hs i).mpr ⟨by omega, getMsbD_initFreeMap hs hn hi⟩
  | segregated =>
    have hlen : (initOwners s.cfg).length = s.cfg.numBuffers := by rw [length_initOwners hs, sum_poolSize_of_wf hwf hs]
    obtain ⟨e, he, howner⟩ := exists_initOwner hs (hlen ▸ hi)
    exact (pktFree_segregated (s := s.busInit) hs i).mpr ⟨e, he, (mem_initFreeList hs he).mpr ⟨hi, howner⟩⟩

/-- Past its two checks BUS.INIT is the initialisation. -/
theorem exec_busInit_eq_next (h : exec .busInit s = .next t) : t = s.busInit := by
  simp only [exec, execBusInit] at h
  split_ifs at h
  exact (Host.Outcome.next.inj h).symm

/-- Settles O19: the map has its top `NUM_BUFFERS` bits set, and under Segregated every packet stands in its owner's
list, the owners' pools making up all the packets. -/
theorem busInitFreesEveryPacket : Obligations.BusInitFreesEveryPacket := fun _ _ hwf h _ hi =>
  exec_busInit_eq_next h ▸ pktFree_busInit hwf hi

end Sys2Proof.Machine
end
